-- ==== Sys2Proof/Word.lean ====
section
/-! DEFINITION. The word types of the machine (spec rules R4, R8, R61): what the spec treats as bits. -/

namespace Sys2Proof

/-- A *word*: a register, a data-memory word, an instruction word, `pc`, or a data field of a latch
(R4 `XLEN = 32`, R8). `+` on words is addition modulo 2^32 and `.toNat` is the unsigned reading `u(w)`. -/
abbrev Word := BitVec 32

/-- A register field of an instruction word: a register number 0 to 7 (R61, R63, R64). -/
abbrev RegIdx := BitVec 3

/-- The 16-bit trailing field of an instruction word (R61, R65). -/
abbrev Field16 := BitVec 16

end Sys2Proof
end

