-- ==== Sys2Proof/Config.lean ====
section
/-! DEFINITION. What an implementation fixes: the spec's constants and the default of its one numeric parameter
(rules R4, R5, R30). There is no free value: the spec gives every result and every latch field a value (R32, R92). -/

namespace Sys2Proof.Config

/-- `NUMREGS`: the number of general registers (R4, R10). -/
abbrev numRegs : Nat := 8

/-- The largest `MEMSIZE` the parameter may take, `2^31` words (R5). -/
def maxMemSize : Nat := 2 ^ 31

/-- The default of the parameter `MEMSIZE` (R5). `MEMSIZE` itself is the field `State.memSize`, so that every
statement about all states is a statement about every size. DESIGN CHOICE, log 1, unsafe: only `State.reset` takes this value. -/
def defaultMemSize : Nat := 65536

/-- What an in-bounds address that the memory does not list reads as: the word 0, which R15, R16 and R30 give for
every address above the image. -/
def unlistedWord : Word := 0#32

end Sys2Proof.Config
end

