-- ==== Sys2Proof/Syntax.lean ====
section
/-! DEFINITION. The instruction set, whole: one constructor per row of the opcode table (rules R61, R67). -/

namespace Sys2Proof

/-- The eight instructions of R67. The operands are the fields the opcode uses (R61, R71): `jalr`, `halt` and `noop`
use none, so their constructors carry none (DEDUCED, log 8, safe). -/
inductive Instr where
  /-- ADD, opcode 0, format R (R90): `dest` is the whole unsigned 16-bit trailing field (R66). -/
  | add (regA regB : RegIdx) (dest : Field16)
  /-- NOR, opcode 1, format R (R91). -/
  | nor (regA regB : RegIdx) (dest : Field16)
  /-- LW, opcode 2, format I (R95): `regA` is the base, `regB` the destination. -/
  | lw (regA regB : RegIdx) (offset : Field16)
  /-- SW, opcode 3, format I (R96): `regA` is the base, `regB` the store data. -/
  | sw (regA regB : RegIdx) (offset : Field16)
  /-- BEQ, opcode 4, format I (R100). -/
  | beq (regA regB : RegIdx) (offset : Field16)
  /-- JALR, opcode 5, format J, reserved: a no-op whose fields are ignored (R72, R101). -/
  | jalr
  /-- HALT, opcode 6, format O (R105). -/
  | halt
  /-- NOOP, opcode 7, format O (R106). -/
  | noop
deriving DecidableEq, Repr

end Sys2Proof
end

