-- ==== Sys2Proof/WellFormed.lean ====
section
/-! DEFINITION. What the spec asks of an instruction of a well-formed program and of a program image
(rules R5, R74, R81, R213). Ill-formed instructions still decode and run: R74 says how an ADD or NOR of them faults. -/

namespace Sys2Proof

/-- The check of R74 and R213: the destination index of an ADD or NOR names one of the eight registers
(bits 15 to 3 of the word are zero). No other instruction has a field that can be out of range (R73). -/
def Instr.wellFormed : Instr → Bool
  | .add _ _ dest => decide (dest.toNat < Config.numRegs)
  | .nor _ _ dest => decide (dest.toNat < Config.numRegs)
  | .lw _ _ _ => true
  | .sw _ _ _ => true
  | .beq _ _ _ => true
  | .jalr => true
  | .halt => true
  | .noop => true

/-- The parameter `MEMSIZE` is in its range `1 <= MEMSIZE <= 2^31` (R5). -/
def memSizeAllowed (memSize : Nat) : Bool :=
  decide (1 ≤ memSize) && decide (memSize ≤ Config.maxMemSize)

/-- The image fits the memories: `numMemory <= MEMSIZE` (R5); a longer one is a load error (R81, R194). -/
def imageFits (memSize : Nat) (image : List Word) : Bool :=
  decide (image.length ≤ memSize)

end Sys2Proof
end

