-- ==== Sys2Proof/Decode.lean ====
section
/-! DEFINITION. The instruction decoder, its control outputs, and the encoder (spec file 30_encoding.md, rules R60 to R75, R83).
Decoding is total: every one of the 2^32 words is one of the eight instructions (R73), so nothing is ever rejected. -/

namespace Sys2Proof

/-! ### Field extraction (R62 to R65) -/

/-- `op(w) = w[24:22]` (R62). -/
def opField (w : Word) : BitVec 3 := w.extractLsb' 22 3

/-- `regA(w) = w[21:19]` (R63). -/
def regA (w : Word) : RegIdx := w.extractLsb' 19 3

/-- `regB(w) = w[18:16]` (R64). -/
def regB (w : Word) : RegIdx := w.extractLsb' 16 3

/-- `imm16(w) = w[15:0]` (R65). -/
def imm16 (w : Word) : Field16 := w.extractLsb' 0 16

/-- `sext_16(v)`: the 32-bit word whose low 16 bits are `v` and whose high 16 bits all equal `v[15]` (R8, R65). -/
def sext16 (v : Field16) : Word := v.signExtend 32

/-! ### The opcode map (R67) -/

/-- The instruction a word decodes to. Only bits 24 to 22 select it (R67); bits 31 to 25 are ignored (R70), and so
are bits 21 to 0 of JALR, HALT and NOOP (R71, R72). -/
def decode (w : Word) : Instr :=
  match (opField w).toNat with
  | 0 => .add (regA w) (regB w) (imm16 w)
  | 1 => .nor (regA w) (regB w) (imm16 w)
  | 2 => .lw (regA w) (regB w) (imm16 w)
  | 3 => .sw (regA w) (regB w) (imm16 w)
  | 4 => .beq (regA w) (regB w) (imm16 w)
  | 5 => .jalr
  | 6 => .halt
  | _ => .noop

/-! ### The control outputs (R66, R68) -/

/-- `readsA(o)`: the result depends on `x[regA]` (R68). -/
def Instr.readsA : Instr → Bool
  | .add _ _ _ | .nor _ _ _ | .lw _ _ _ | .sw _ _ _ | .beq _ _ _ => true
  | .jalr | .halt | .noop => false

/-- `readsB(o)`: the result depends on `x[regB]` (R68); for LW, `regB` is the destination, never a read. -/
def Instr.readsB : Instr → Bool
  | .add _ _ _ | .nor _ _ _ | .sw _ _ _ | .beq _ _ _ => true
  | .lw _ _ _ | .jalr | .halt | .noop => false

/-- `dest(w)`, the index of the register the instruction writes: the whole trailing field of an ADD or NOR, `regB` of
an LW; no other opcode has one (R66). -/
def Instr.dest : Instr → Option Nat
  | .add _ _ dest => some dest.toNat
  | .nor _ _ dest => some dest.toNat
  | .lw _ rb _ => some rb.toNat
  | .sw _ _ _ | .beq _ _ _ | .jalr | .halt | .noop => none

/-- `regWrite(o)`: the instruction writes a general register in WB (R68): ADD, NOR, LW, those with a destination (R66). -/
def Instr.regWrite (i : Instr) : Bool := i.dest.isSome

/-- The selections of the ALU (R68). -/
inductive AluSel where
  /-- `A + B`. -/
  | addAB
  /-- `~(A | B)`. -/
  | norAB
  /-- `A + offset`. -/
  | addAOff
  /-- `pcPlus1 + offset`. -/
  | bt
  /-- The word 0. -/
  | zero
deriving DecidableEq, Repr

/-- `aluSel(o)` (R68). -/
def Instr.aluSel : Instr → AluSel
  | .add _ _ _ => .addAB
  | .nor _ _ _ => .norAB
  | .lw _ _ _ => .addAOff
  | .sw _ _ _ => .addAOff
  | .beq _ _ _ => .bt
  | .jalr => .zero
  | .halt => .zero
  | .noop => .zero

/-- `memRead(o)`: true for LW only (R68). -/
def Instr.memRead : Instr → Bool
  | .lw _ _ _ => true
  | .add _ _ _ | .nor _ _ _ | .sw _ _ _ | .beq _ _ _ | .jalr | .halt | .noop => false

/-- `memWrite(o)`: true for SW only (R68). -/
def Instr.memWrite : Instr → Bool
  | .sw _ _ _ => true
  | .add _ _ _ | .nor _ _ _ | .lw _ _ _ | .beq _ _ _ | .jalr | .halt | .noop => false

/-- `isBranch(o)`: true for BEQ only (R68). -/
def Instr.isBranch : Instr → Bool
  | .beq _ _ _ => true
  | .add _ _ _ | .nor _ _ _ | .lw _ _ _ | .sw _ _ _ | .jalr | .halt | .noop => false

/-- `isHalt(o)`: true for HALT only (R68). -/
def Instr.isHalt : Instr → Bool
  | .halt => true
  | .add _ _ _ | .nor _ _ _ | .lw _ _ _ | .sw _ _ _ | .beq _ _ _ | .jalr | .noop => false

/-! ### The encoder (R83) -/

/-- `encode(o, A, B, F) = (o << 22) | (A << 19) | (B << 16) | (F & 0xFFFF)`, bits 31 to 25 zero (R83). -/
def encodeFields (o : BitVec 3) (a b : RegIdx) (f : Field16) : Word :=
  (o.setWidth 32 <<< 22) ||| (a.setWidth 32 <<< 19) ||| (b.setWidth 32 <<< 16) ||| f.setWidth 32

/-- The canonical word of an instruction: R83 over the opcode map of R67, with every ignored bit zero
(the canonical words of R80: `halt` is `0x01800000`, `noop` is `NOOPW`). -/
def encode : Instr → Word
  | .add a b d => encodeFields 0#3 a b d
  | .nor a b d => encodeFields 1#3 a b d
  | .lw a b off => encodeFields 2#3 a b off
  | .sw a b off => encodeFields 3#3 a b off
  | .beq a b off => encodeFields 4#3 a b off
  | .jalr => encodeFields 5#3 0#3 0#3 0#16
  | .halt => encodeFields 6#3 0#3 0#3 0#16
  | .noop => encodeFields 7#3 0#3 0#3 0#16

/-- `NOOPW`, the canonical no-op word: the `instr` field of every latch at reset and of every bubble (R69). -/
def noopW : Word := 0x01C00000#32

/-- The canonical word of `halt` (R80, R105). -/
def haltW : Word := 0x01800000#32

/-- One record of the program image: the 32-bit two's complement of a signed integer (R81). -/
def wordOfRecord (v : Int) : Word := BitVec.ofInt 32 v

/-! ### The opcode table's view of a word -/

/-- The instruction word whose bits the opcode table numbers: one 32-bit word (R60), the bits above `nbits` zero
(DEDUCED, log 9, safe). -/
def tableWord (nbits w : Nat) : Word := BitVec.ofNat 32 (w % 2 ^ nbits)

/-- What the decoder reads from an instruction whose bits are `w`. An instruction is one 32-bit word (R60), so a row of
more than 32 bits is none. -/
def decodeTableWord (nbits w : Nat) : Option Instr :=
  if nbits ≤ 32 then some (decode (tableWord nbits w)) else none

end Sys2Proof
end

