-- ==== Sys2Proof/Machine/State.lean ====
section
/-! DEFINITION. The whole state of the hardware, the *snapshot* of spec file 10_state.md, its reset value (R30), and the
reasons a step can stop. State is plain data. -/

namespace Sys2Proof.Machine

/-- The machine faults of R182, each with the offending value. They are what the spec's state component `fault` records;
they are no exceptions (R180). -/
inductive MachineFault where
  /-- The IF stage was to fetch from an address outside the instruction memory (R125). -/
  | fetchOutOfBounds (addr : Word)
  /-- The MEM stage held an LW or SW whose effective address is outside the data memory (R133). -/
  | dataAddressOutOfBounds (addr : Word)
  /-- The WB stage held an ADD or NOR whose destination index is 8 or more (R135). -/
  | regIndexOutOfBounds (index : Nat)
deriving DecidableEq, Repr

/-- One memory array as the list of the (address, word) pairs that differ from the unlisted word. The unit is the
32-bit word: the hardware has no byte and no byte order (R41, R44; DEDUCED, log 6, safe). -/
structure Memory where
  cells : List (Nat × Word)
deriving DecidableEq, Repr

/-- The canonical form of a memory: addresses strictly rising, and no cell holds what an unlisted address reads as. -/
abbrev Memory.wf (m : Memory) : Prop :=
  m.cells.Pairwise (fun p q => p.1 < q.1) ∧ ∀ p ∈ m.cells, p.2 ≠ Config.unlistedWord

/-- Every listed address is below `n`: the array has `n` words (R15, R16). -/
abbrev Memory.within (m : Memory) (n : Nat) : Prop :=
  ∀ p ∈ m.cells, p.1 < n

/-- The latch IF/ID (R22). -/
structure IFID where
  instr : Word
  pcPlus1 : Word
deriving DecidableEq, Repr

/-- The latch ID/EX (R23). -/
structure IDEX where
  instr : Word
  pcPlus1 : Word
  readRegA : Word
  readRegB : Word
  offset : Word
deriving DecidableEq, Repr

/-- The latch EX/MEM (R24). -/
structure EXMEM where
  instr : Word
  branchTarget : Word
  eq : Bool
  aluResult : Word
  readRegB : Word
deriving DecidableEq, Repr

/-- The latch MEM/WB (R25). -/
structure MEMWB where
  instr : Word
  writeData : Word
deriving DecidableEq, Repr

/-- The latch WB/END (R26). -/
structure WBEND where
  instr : Word
  writeData : Word
deriving DecidableEq, Repr

/-- `BUBBLE_IFID` (R31). -/
def bubbleIFID : IFID := { instr := noopW, pcPlus1 := 0#32 }

/-- `BUBBLE_IDEX` (R31). -/
def bubbleIDEX : IDEX :=
  { instr := noopW, pcPlus1 := 0#32, readRegA := 0#32, readRegB := 0#32, offset := 0#32 }

/-- `BUBBLE_EXMEM` (R31). -/
def bubbleEXMEM : EXMEM :=
  { instr := noopW, branchTarget := 0#32, eq := false, aluResult := 0#32, readRegB := 0#32 }

/-- The reset value of MEM/WB (R30). -/
def resetMEMWB : MEMWB := { instr := noopW, writeData := 0#32 }

/-- The reset value of WB/END (R30). -/
def resetWBEND : WBEND := { instr := noopW, writeData := 0#32 }

/-- The complete state of the hardware (10_state.md, R10 to R26; there is no other state, R34). -/
structure State where
  /-- The parameter `MEMSIZE` (R5): how many words each of the two memory arrays has. No step changes it. -/
  memSize : Nat
  /-- The next instruction address to fetch (R13). -/
  pc : Word
  /-- The instruction memory, never written after reset (R15). -/
  imem : Memory
  /-- The data memory (R16). -/
  dmem : Memory
  /-- The register file: eight 32-bit registers, register 0 an ordinary one (R10, R11). -/
  regs : Vector Word 8
  /-- The cycle counter, a natural number without upper bound (R17). -/
  cycles : Nat
  /-- The latch IF/ID (R22). -/
  ifid : IFID
  /-- The latch ID/EX (R23). -/
  idex : IDEX
  /-- The latch EX/MEM (R24). -/
  exmem : EXMEM
  /-- The latch MEM/WB (R25). -/
  memwb : MEMWB
  /-- The latch WB/END (R26). -/
  wbend : WBEND
  /-- The fault record: none, or the one machine fault that ended the run (R20, R184). -/
  fault : Option MachineFault
deriving DecidableEq, Repr

/-- Why a step has no next state. Both are the spec's terminal statuses, which only reset leaves (R116, U13 of
93_implementation_defined.md; DEDUCED, log 7, safe); no instruction's own meaning raises either. -/
inductive Fault where
  /-- Raised by `step` alone (and by the program-order `seqStep`) on a state whose WB/END holds a HALT: the machine is
  *halted* and has no next cycle (R115). Safe: the hardware too executes no cycle. -/
  | halted
  /-- Raised by `step` alone (and by `seqStep`) on a state whose `fault` records `f`: the machine is *faulted*, terminal
  until reset (R117, R184). Safe: the hardware too executes no cycle. -/
  | faulted (f : MachineFault)
deriving DecidableEq, Repr

/-- Why a step has no meaning. Every instruction of this machine has its meaning, so nothing raises it. -/
inductive Refusal where
  /-- The instruction with this mnemonic is not modelled: the arm of `exec` for an instruction without a meaning would
  raise it, and none does. Safe. -/
  | notModelled (mnemonic : String)
deriving DecidableEq, Repr

/-- The outcomes of this machine. -/
abbrev Outcome := Host.Outcome State Fault Refusal

/-- The machine right after reset with the empty image, a legal one (R30, R200, R203), and the default `MEMSIZE` of R5.
DESIGN CHOICE, log 1 and log 2, unsafe: the size and the image are parameters of the spec. `State.load` is reset with any other. -/
def State.reset : State :=
  { memSize := Config.defaultMemSize
    pc := 0#32
    imem := ⟨[]⟩
    dmem := ⟨[]⟩
    regs := Vector.replicate 8 0#32
    cycles := 0
    ifid := bubbleIFID
    idex := bubbleIDEX
    exmem := bubbleEXMEM
    memwb := resetMEMWB
    wbend := resetWBEND
    fault := none }

end Sys2Proof.Machine
end

