-- ==== Sys2Proof/Machine/Ops.lean ====
section
/-! DEFINITION. The named operations over memory, registers, the program counter and the run status, and what a machine
fault does (spec files 10_state.md, 20_memory.md, 60_exceptions.md). -/

namespace Sys2Proof.Machine

/-! ### Memory (R40 to R48) -/

/-- What a list of cells holds at a word address. -/
def cellsRead : List (Nat × Word) → Nat → Word
  | [], _ => Config.unlistedWord
  | (b, v) :: rest, a => if b = a then v else cellsRead rest a

/-- The cells with the word at one address replaced. It keeps the canonical form: a word equal to what an unlisted
address reads as is not listed. -/
def cellsWrite : List (Nat × Word) → Nat → Word → List (Nat × Word)
  | [], a, v => if v = Config.unlistedWord then [] else [(a, v)]
  | (b, u) :: rest, a, v =>
    if a < b then
      if v = Config.unlistedWord then (b, u) :: rest else (a, v) :: (b, u) :: rest
    else if a = b then
      if v = Config.unlistedWord then rest else (a, v) :: rest
    else (b, u) :: cellsWrite rest a v

/-- The cells of an image placed from address `a` upward (R15, R16). -/
def cellsOfImage : Nat → List Word → List (Nat × Word)
  | _, [] => []
  | a, w :: rest =>
    if w = Config.unlistedWord then cellsOfImage (a + 1) rest else (a, w) :: cellsOfImage (a + 1) rest

/-- The word at a word address: one read of the array, without side effect (R47). -/
def Memory.read (m : Memory) (a : Nat) : Word := cellsRead m.cells a

/-- The array with the word at one address replaced, every other word unchanged (R47). -/
def Memory.write (m : Memory) (a : Nat) (v : Word) : Memory := ⟨cellsWrite m.cells a v⟩

/-- An array holding `image` from address 0 upward and 0 above it (R15, R16). -/
def Memory.ofImage (image : List Word) : Memory := ⟨cellsOfImage 0 image⟩

/-- The bounds test of R45: the address, read as unsigned, is below `MEMSIZE`. -/
def inBounds (memSize : Nat) (addr : Word) : Bool := decide (addr.toNat < memSize)

/-- `IFetch(addr)`: one word of instruction memory, or `FetchOutOfBounds(addr)` (R8, R45). -/
def iFetch (memSize : Nat) (imem : Memory) (addr : Word) : Except MachineFault Word :=
  if inBounds memSize addr then .ok (imem.read addr.toNat) else .error (.fetchOutOfBounds addr)

/-- `MemRead(addr, 1)`: one word of data memory, or `DataAddressOutOfBounds(addr)` (R8, R43, R45). -/
def memRead (memSize : Nat) (dmem : Memory) (addr : Word) : Except MachineFault Word :=
  if inBounds memSize addr then .ok (dmem.read addr.toNat) else .error (.dataAddressOutOfBounds addr)

/-- `MemWrite(addr, 1, v)`: data memory with one word written, or `DataAddressOutOfBounds(addr)` (R8, R43, R45). -/
def memWrite (memSize : Nat) (dmem : Memory) (addr v : Word) : Except MachineFault Memory :=
  if inBounds memSize addr then .ok (dmem.write addr.toNat v) else .error (.dataAddressOutOfBounds addr)

/-! ### Registers (R10 to R12) -/

/-- A read of `x[r]`. A register field is 3 bits, so the read is always in range (R127). -/
def readReg (regs : Vector Word 8) (r : RegIdx) : Word := regs[r.toNat]'(r.isLt)

/-- A write of `x[d]` for a destination index `d`: `RegIndexOutOfBounds(d)` when `d` is 8 or more (R135); register 0 is
written like any other (R11). -/
def writeReg (regs : Vector Word 8) (d : Nat) (v : Word) : Except MachineFault (Vector Word 8) :=
  if h : d < Config.numRegs then .ok (regs.set d v h) else .error (.regIndexOutOfBounds d)

/-- `x[r]` in a state. -/
def State.reg (s : State) (r : RegIdx) : Word := readReg s.regs r

/-! ### The arithmetic of the machine (R92) -/

/-- 32-bit addition modulo 2^32: no carry, no overflow indication, no saturation (R92). -/
def add32 (a b : Word) : Word := a + b

/-- 32-bit bitwise NOR (R91, R92). -/
def nor32 (a b : Word) : Word := ~~~(a ||| b)

/-- The address after `a`, modulo 2^32 (R41: addresses count words). -/
def nextAddr (a : Word) : Word := a + 1#32

/-! ### One component of the state at a time -/

def State.setPc (s : State) (pc : Word) : State := { s with pc := pc }

def State.setImem (s : State) (imem : Memory) : State := { s with imem := imem }

def State.setDmem (s : State) (dmem : Memory) : State := { s with dmem := dmem }

def State.setRegs (s : State) (regs : Vector Word 8) : State := { s with regs := regs }

def State.setWbend (s : State) (wbend : WBEND) : State := { s with wbend := wbend }

def State.setFault (s : State) (fault : Option MachineFault) : State := { s with fault := fault }

/-- `pc <- pc + 1`, the sequential advance of the instruction rules (R90 to R106). -/
def State.advance (s : State) : State := s.setPc (nextAddr s.pc)

/-! ### The run status (R20, R115, R116) -/

/-- `halted(S) := op(S.WBEND.instr) == HALT`: WB/END holds a HALT (R115). -/
def State.halted (s : State) : Bool := (decode s.wbend.instr).isHalt

/-- The three statuses of R20. -/
inductive Status where
  /-- `fault = None` and not `halted(S)`. -/
  | running
  /-- `fault = None` and `halted(S)`. -/
  | halted
  /-- `fault ≠ None`. -/
  | faulted
deriving DecidableEq, Repr

/-- The run status of a state (R20). -/
def State.status (s : State) : Status :=
  match s.fault with
  | some _ => .faulted
  | none => if s.halted then .halted else .running

/-- The status output `halted` of R7: the halt predicate and `fault = None` (R115). -/
def State.haltedOutput (s : State) : Bool := s.fault.isNone && s.halted

/-- A cycle is executed only in the *running* status (R116). -/
def State.running (s : State) : Bool := s.fault.isNone && !s.halted

/-! ### Machine faults (R180 to R188): the hardware's only exceptional event -/

/-- What a machine fault does, for whatever raises it: `fault` becomes `Some f` and every other component keeps the
value it had before (R117, R184). No pc and no status is saved, nothing is vectored to, and nothing returns from it
(R180, R187, R188): only reset leaves the *faulted* status. DEDUCED, log 3, unsafe: that an instruction's own effect
takes it with `pc` unmoved. -/
def State.takeFault (s : State) (f : MachineFault) : State := s.setFault (some f)

/-- Ends an attempted transition from `s`: its state where nothing was raised, the state with the fault taken where
something was. Either way there is a next state. -/
def settle (s : State) : Except MachineFault State → Outcome
  | .ok t => .next t
  | .error f => .next (s.takeFault f)

/-- Runs `k` on a state in the *running* status; in the two terminal statuses there is no next state
(R116, U13 of 93_implementation_defined.md). -/
def whileRunning (s : State) (k : State → Outcome) : Outcome :=
  match s.fault with
  | some f => .fault (.faulted f)
  | none => if s.halted then .fault .halted else k s

/-! ### Reset with an image (R5, R194, R200, R202) -/

/-- Asserting reset with `MEMSIZE` and `image`: every component at its reset value and both memories holding the image
(R30, R200). It takes no earlier state, since nothing survives a reset (R202). There is no initial state for an image
longer than `MEMSIZE` (R81, R194) or for a size outside R5's range. -/
def State.load (memSize : Nat) (image : List Word) : Option State :=
  if memSizeAllowed memSize && imageFits memSize image then
    some { State.reset with
      memSize := memSize
      imem := Memory.ofImage image
      dmem := Memory.ofImage image }
  else none

end Sys2Proof.Machine
end

