-- ==== Sys2Proof/Machine/Flags.lean ====
section
/-! DEFINITION. Comparison results. The hardware has no status flag, no condition code and no predicate register (R18):
the only comparison result it holds is the field `eq` of EX/MEM, computed here. -/

namespace Sys2Proof.Machine

/-- 32-bit equality comparison, on all 32 bits (R92, R100). -/
def eq32 (a b : Word) : Bool := a == b

/-- The branch outcome `eq <- (op(w) == BEQ) and (A == B)`: false for every other opcode (R131). -/
def branchOutcome (i : Instr) (a b : Word) : Bool := i.isBranch && eq32 a b

end Sys2Proof.Machine
end

