-- ==== Sys2Proof/Machine/Flush.lean ====
section
/-! DEFINITION. Branch resolution and the flush (spec file 48_branch_flush.md). Prediction is the constant not-taken (R170). -/

namespace Sys2Proof.Machine

/-- `taken` (R172): EX/MEM holds a BEQ whose `eq` is true. -/
def takenBranch (s : State) : Bool := (decode s.exmem.instr).isBranch && s.exmem.eq

/-- The flush adjustment of R111 part 1 and R173: the intermediate state `T` the stages run on, never observable. -/
def flushAdjust (s : State) : State :=
  if takenBranch s then
    { s with pc := s.exmem.branchTarget, ifid := bubbleIFID, idex := bubbleIDEX, exmem := bubbleEXMEM }
  else s

end Sys2Proof.Machine
end

