-- ==== Sys2Proof/Machine/Operands.lean ====
section
/-! DEFINITION. Operand forms: the one addressing mode (R97), the branch target (R100, R131), and the ALU's operand
selections (R68, R130). A register operand is `State.reg` (Ops.lean). -/

namespace Sys2Proof.Machine

/-- The effective address of an LW or SW: base plus the sign-extended displacement, a word address modulo 2^32,
not scaled (R97). -/
def effectiveAddress (base : Word) (offset : Field16) : Word := add32 base (sext16 offset)

/-- The target of a BEQ from its own address plus 1 and its displacement, modulo 2^32 (R100, R131). -/
def branchTarget (pcPlus1 : Word) (offset : Field16) : Word := add32 pcPlus1 (sext16 offset)

/-- The ALU: the selected result of the two resolved operands, the sign-extended offset and the branch target (R130). -/
def alu (sel : AluSel) (a b offset target : Word) : Word :=
  match sel with
  | .addAB => add32 a b
  | .norAB => nor32 a b
  | .addAOff => add32 a offset
  | .bt => target
  | .zero => 0#32

end Sys2Proof.Machine
end

