-- ==== Sys2Proof/Machine/Forwarding.lean ====
section
/-! DEFINITION. The forwarding mux network (spec file 47_forwarding.md). It is combinational and has no state. -/

namespace Sys2Proof.Machine

/-- The word in a latch is an eligible source for register `r`: ADD, NOR or LW (R161), with a destination index equal to
`r` as a number, so an index of 8 or more matches nothing (R162). -/
def forwardsTo (w : Word) (r : RegIdx) : Bool := (decode w).dest == some r.toNat

/-- `Fwd(r, v)` (R163): the youngest eligible source that matches, EX/MEM first, then MEM/WB, then WB/END, else the
fallback `v`. An LW in EX/MEM is eligible and supplies its address (R168). -/
def fwd (r : RegIdx) (v : Word) (exmem : EXMEM) (memwb : MEMWB) (wbend : WBEND) : Word :=
  if forwardsTo exmem.instr r then exmem.aluResult
  else if forwardsTo memwb.instr r then memwb.writeData
  else if forwardsTo wbend.instr r then wbend.writeData
  else v

/-- Operand A of the instruction in ID/EX (R129). -/
def operandA (t : State) : Word :=
  fwd (regA t.idex.instr) t.idex.readRegA t.exmem t.memwb t.wbend

/-- Operand B of the instruction in ID/EX (R129), resolved for every opcode (R166). -/
def operandB (t : State) : Word :=
  fwd (regB t.idex.instr) t.idex.readRegB t.exmem t.memwb t.wbend

end Sys2Proof.Machine
end

