-- ==== Sys2Proof/Machine/Hazard.lean ====
section
/-! DEFINITION. The hazard detection unit (spec file 46_hazard_unit.md): strategy (a) of R156, so it has no state. -/

namespace Sys2Proof.Machine

/-- The word reads register `r` (R150), through the fields its opcode reads. -/
def readsReg (w : Word) (r : RegIdx) : Bool :=
  ((decode w).readsA && regA w == r) || ((decode w).readsB && regB w == r)

/-- `stall` (R151): ID/EX holds an LW whose destination register the instruction in IF/ID reads. -/
def loadUseStall (ifid : IFID) (idex : IDEX) : Bool :=
  (decode idex.instr).memRead && readsReg ifid.instr (regB idex.instr)

end Sys2Proof.Machine
end

