-- ==== Sys2Proof/Machine/Stages.lean ====
section
/-! DEFINITION. The five pipeline stages (spec file 45_pipeline_stages.md). Each is a function of the flush-adjusted state
`t` alone and none reads another's output (R110, R112). -/

namespace Sys2Proof.Machine

/-- The IF stage: the next `pc` and IF/ID. A stalled stage holds both and fetches nothing (R126); else it fetches at `pc`
(R125), and an address out of bounds raises `FetchOutOfBounds`. -/
def ifStage (t : State) (stall : Bool) : Except MachineFault (Word × IFID) :=
  if stall then .ok (t.pc, t.ifid)
  else (iFetch t.memSize t.imem t.pc).map fun w => (nextAddr t.pc, { instr := w, pcPlus1 := nextAddr t.pc })

/-- The ID stage: the next ID/EX, a bubble in a stall (R128), else the decoded word with both register reads and the
extended field, for every opcode (R127). -/
def idStage (t : State) (stall : Bool) : IDEX :=
  if stall then bubbleIDEX
  else
    { instr := t.ifid.instr
      pcPlus1 := t.ifid.pcPlus1
      readRegA := readReg t.regs (regA t.ifid.instr)
      readRegB := readReg t.regs (regB t.ifid.instr)
      offset := sext16 (imm16 t.ifid.instr) }

/-- The branch target adder of the EX stage, for every opcode (R131). -/
def exBranchTarget (t : State) : Word := add32 t.idex.pcPlus1 t.idex.offset

/-- The EX stage: the next EX/MEM (R129 to R132). It is never stalled. -/
def exStage (t : State) : EXMEM :=
  { instr := t.idex.instr
    branchTarget := exBranchTarget t
    eq := branchOutcome (decode t.idex.instr) (operandA t) (operandB t)
    aluResult := alu (decode t.idex.instr).aluSel (operandA t) (operandB t) t.idex.offset (exBranchTarget t)
    readRegB := operandB t }

/-- The MEM stage: the next MEM/WB and data memory (R133, R134). An LW reads and an SW writes one word, with the bounds
check of R45; for every other opcode the writeback value is the ALU result. -/
def memStage (t : State) : Except MachineFault (MEMWB × Memory) :=
  if (decode t.exmem.instr).memRead then
    (memRead t.memSize t.dmem t.exmem.aluResult).map fun v => ({ instr := t.exmem.instr, writeData := v }, t.dmem)
  else if (decode t.exmem.instr).memWrite then
    (memWrite t.memSize t.dmem t.exmem.aluResult t.exmem.readRegB).map fun m =>
      ({ instr := t.exmem.instr, writeData := t.exmem.aluResult }, m)
  else .ok ({ instr := t.exmem.instr, writeData := t.exmem.aluResult }, t.dmem)

/-- The WB stage: the next WB/END and register file (R135, R136). At most one register is written; an ADD or NOR with a
destination index of 8 or more raises `RegIndexOutOfBounds`. -/
def wbStage (t : State) : Except MachineFault (WBEND × Vector Word 8) :=
  match (decode t.memwb.instr).dest with
  | some d =>
    (writeReg t.regs d t.memwb.writeData).map fun regs =>
      ({ instr := t.memwb.instr, writeData := t.memwb.writeData }, regs)
  | none => .ok ({ instr := t.memwb.instr, writeData := t.memwb.writeData }, t.regs)

end Sys2Proof.Machine
end

