-- ==== Sys2Proof/Machine/Cycle.lean ====
section
/-! DEFINITION. The cycle driver (spec file 44_cycle_driver.md): the next-state function `Step` of R111 and R120. -/

namespace Sys2Proof.Machine

/-- The hazard decision of the cycle, taken on the flush-adjusted latches (R111 part 2, R112). -/
def stalls (t : State) : Bool := loadUseStall t.ifid t.idex

/-- The commit of R113: every component of the next state at once, from the current state and the five stages' outputs.
`imem` and `MEMSIZE` stay, and `cycles` adds 1 (R114). -/
def commit (s : State) (pc : Word) (ifid : IFID) (idex : IDEX) (exmem : EXMEM) (memwb : MEMWB) (wbend : WBEND)
    (regs : Vector Word 8) (dmem : Memory) : State :=
  { memSize := s.memSize
    pc := pc
    imem := s.imem
    dmem := dmem
    regs := regs
    cycles := s.cycles + 1
    ifid := ifid
    idex := idex
    exmem := exmem
    memwb := memwb
    wbend := wbend
    fault := none }

/-- The five stages on the flush-adjusted state `t`, and the commit over `s`, or the fault of highest priority: WB's
first, then MEM's, then IF's (R111 part 3, R185). -/
def runStages (s t : State) : Except MachineFault State :=
  match wbStage t with
  | .error f => .error f
  | .ok (wbend, regs) =>
    match memStage t with
    | .error f => .error f
    | .ok (memwb, dmem) =>
      match ifStage t (stalls t) with
      | .error f => .error f
      | .ok (pc, ifid) => .ok (commit s pc ifid (idStage t (stalls t)) (exStage t) memwb wbend regs dmem)

/-- One clock cycle of a *running* machine (R111, R120): flush adjustment, hazard decision, the five stages, commit. A
cycle that faults commits nothing: `fault` is set on `s` itself, not on the flush-adjusted state (R117, R184). -/
def cycle (s : State) : Outcome := settle s (runStages s (flushAdjust s))

/-- The word address the next unstalled cycle fetches from: `pc`, or the branch target in a cycle that flushes (R125). -/
def fetchAddress (s : State) : Word := (flushAdjust s).pc

end Sys2Proof.Machine
end

