-- ==== Sys2Proof/Machine/Arithmetic.lean ====
section
/-! DEFINITION. The arithmetic and logic instructions ADD and NOR (spec file 40_arithmetic.md): the architectural effect
of each, what it does to `x[]`, data memory and `pc` in program order (log 4). Their stage walk is Machine/Stages.lean. -/

namespace Sys2Proof.Machine

/-- ADD (R90): `x[imm16] <- x[regA] + x[regB]`, `pc <- pc + 1`. A destination index of 8 or more raises
`RegIndexOutOfBounds` and no register is written (R74, R90). -/
def execAdd (regA regB : RegIdx) (dest : Field16) (s : State) : Outcome :=
  settle s ((writeReg s.regs dest.toNat (add32 (s.reg regA) (s.reg regB))).map fun regs => (s.setRegs regs).advance)

/-- NOR (R91): `x[imm16] <- ~(x[regA] | x[regB])`, `pc <- pc + 1`. A destination index of 8 or more raises
`RegIndexOutOfBounds` and no register is written (R74, R91). -/
def execNor (regA regB : RegIdx) (dest : Field16) (s : State) : Outcome :=
  settle s ((writeReg s.regs dest.toNat (nor32 (s.reg regA) (s.reg regB))).map fun regs => (s.setRegs regs).advance)

end Sys2Proof.Machine
end

