-- ==== Sys2Proof/Machine/Branch.lean ====
section
/-! DEFINITION. The control transfer instructions BEQ and the reserved JALR (spec file 42_branch.md): the architectural
effect of each (log 4). Their stage walk is Machine/Stages.lean; the flush of a taken BEQ is Machine/Flush.lean. -/

namespace Sys2Proof.Machine

/-- BEQ (R100): `pc <- pc + 1 + sext_16(imm16)` where the two registers are equal, else `pc <- pc + 1`. The target is not
checked until it is fetched. -/
def execBeq (regA regB : RegIdx) (offset : Field16) (s : State) : Outcome :=
  settle s (.ok (if eq32 (s.reg regA) (s.reg regB) then s.setPc (branchTarget (nextAddr s.pc) offset) else s.advance))

/-- JALR (R101), reserved: `pc <- pc + 1` and nothing else, no register written and no jump made. -/
def execJalr (s : State) : Outcome :=
  settle s (.ok s.advance)

end Sys2Proof.Machine
end

