-- ==== Sys2Proof/Machine/LoadStore.lean ====
section
/-! DEFINITION. The load and store instructions LW and SW (spec file 41_load_store.md): the architectural effect of each
(log 4). Their stage walk is Machine/Stages.lean. -/

namespace Sys2Proof.Machine

/-- LW (R95): `x[regB] <- MemRead(x[regA] + sext_16(imm16), 1)`, `pc <- pc + 1`. An address out of bounds raises
`DataAddressOutOfBounds` and nothing is loaded. The base is the value before the write. -/
def execLw (regA regB : RegIdx) (offset : Field16) (s : State) : Outcome :=
  settle s (match memRead s.memSize s.dmem (effectiveAddress (s.reg regA) offset) with
    | .error f => .error f
    | .ok v => (writeReg s.regs regB.toNat v).map fun regs => (s.setRegs regs).advance)

/-- SW (R96): `MemWrite(x[regA] + sext_16(imm16), 1, x[regB])`, `pc <- pc + 1`. An address out of bounds raises
`DataAddressOutOfBounds` and nothing is stored. Only data memory changes (R50). -/
def execSw (regA regB : RegIdx) (offset : Field16) (s : State) : Outcome :=
  settle s ((memWrite s.memSize s.dmem (effectiveAddress (s.reg regA) offset) (s.reg regB)).map
    fun dmem => (s.setDmem dmem).advance)

end Sys2Proof.Machine
end

