-- ==== Sys2Proof/Machine/System.lean ====
section
/-! DEFINITION. The system instructions HALT and NOOP (spec file 43_system.md): the architectural effect of each (log 4). -/

namespace Sys2Proof.Machine

/-- HALT (R105): `halted <- true`, and nothing else. `halted` is no stored bit but the predicate that WB/END holds a HALT
(R20, R115), so the effect is WB/END holding the canonical HALT as it retires: `writeData` is the `aluResult` 0 that the
HALT carries through MEM (R130, R133). DESIGN CHOICE, log 5, unsafe: the latch's other bits in program order. -/
def execHalt (s : State) : Outcome :=
  settle s (.ok (s.setWbend { instr := haltW, writeData := 0#32 }))

/-- NOOP (R106): `pc <- pc + 1`. -/
def execNoop (s : State) : Outcome :=
  settle s (.ok s.advance)

end Sys2Proof.Machine
end

