-- ==== Sys2Proof/Machine/Step.lean ====
section
/-! DEFINITION. One step of the machine is one clock cycle (R8 *cycle*, R110, R116), and the placing of an instruction
where the next cycle fetches. -/

namespace Sys2Proof.Machine

/-- One step: one clock cycle of a running machine (R111), no next state of a halted or faulted one (R116). -/
def step (s : State) : Outcome := whileRunning s cycle

/-- `s` with the instruction word stored in instruction memory at the address the next cycle fetches from. It stands for
the loader (R7); nothing else is changed (log 2). -/
def State.withFetchWord (s : State) (nbits w : Nat) : State :=
  s.setImem (s.imem.write (fetchAddress s).toNat (tableWord nbits w))

end Sys2Proof.Machine
end

