-- ==== Sys2Proof/Machine/DontCare.lean ====
section
/-! DEFINITION. Which latch fields are meaningful for which opcode (rule R32). Nothing of the machine calls this: every
field has its defined value in every cycle; R33 says what the other fields cannot influence
(DEDUCED, log 11, safe). -/

namespace Sys2Proof.Machine

/-- `v` where the field is meaningful, the word 0 where it is a don't-care. -/
def meaningfulWord (meaningful : Bool) (v : Word) : Word := if meaningful then v else 0#32

/-- `ID/EX.offset` is meaningful for LW, SW and BEQ (R32). -/
def offsetMeaningful (i : Instr) : Bool := i.memRead || i.memWrite || i.isBranch

/-- `EX/MEM.aluResult` is meaningful for ADD, NOR, LW and SW (R32). -/
def aluResultMeaningful (i : Instr) : Bool := i.regWrite || i.memWrite

/-- IF/ID with its don't-care field blanked: `pcPlus1` is meaningful for BEQ (R32). -/
def maskIFID (l : IFID) : IFID :=
  { l with pcPlus1 := meaningfulWord (decode l.instr).isBranch l.pcPlus1 }

/-- ID/EX with its don't-care fields blanked (R32). -/
def maskIDEX (l : IDEX) : IDEX :=
  { l with
    pcPlus1 := meaningfulWord (decode l.instr).isBranch l.pcPlus1
    readRegA := meaningfulWord (decode l.instr).readsA l.readRegA
    readRegB := meaningfulWord (decode l.instr).readsB l.readRegB
    offset := meaningfulWord (offsetMeaningful (decode l.instr)) l.offset }

/-- EX/MEM with its don't-care fields blanked (R32). -/
def maskEXMEM (l : EXMEM) : EXMEM :=
  { l with
    branchTarget := meaningfulWord (decode l.instr).isBranch l.branchTarget
    eq := (decode l.instr).isBranch && l.eq
    aluResult := meaningfulWord (aluResultMeaningful (decode l.instr)) l.aluResult
    readRegB := meaningfulWord (decode l.instr).memWrite l.readRegB }

/-- MEM/WB with its don't-care field blanked: `writeData` is meaningful for ADD, NOR and LW (R32). -/
def maskMEMWB (l : MEMWB) : MEMWB :=
  { l with writeData := meaningfulWord (decode l.instr).regWrite l.writeData }

/-- WB/END with its don't-care field blanked (R32). -/
def maskWBEND (l : WBEND) : WBEND :=
  { l with writeData := meaningfulWord (decode l.instr).regWrite l.writeData }

/-- A state with every don't-care field of every latch blanked, all else as it is. -/
def maskDontCare (s : State) : State :=
  { s with
    ifid := maskIFID s.ifid
    idex := maskIDEX s.idex
    exmem := maskEXMEM s.exmem
    memwb := maskMEMWB s.memwb
    wbend := maskWBEND s.wbend }

end Sys2Proof.Machine
end

