-- ==== Sys2Proof/Machine/ProgramOrder.lean ====
section
/-! DEFINITION. The program-order execution of R119, the sequential machine the pipeline must agree with, and how a
pipeline state is read as one of its states. -/

namespace Sys2Proof.Machine

/-- One instruction of the program-order execution (R119): fetch at `pc` from the unchanging instruction memory, decode,
and apply the instruction's architectural effect; a fetch out of bounds raises `FetchOutOfBounds` (R45;
DEDUCED, log 10, safe). -/
def seqStep (s : State) : Outcome :=
  whileRunning s fun s =>
    match iFetch s.memSize s.imem s.pc with
    | .error f => settle s (.error f)
    | .ok w => exec (decode w) s

/-- `n` instructions of the program-order execution, stopping where it stops. -/
def seqRun : Nat → State → Outcome
  | 0, s => .next s
  | n + 1, s =>
    match seqStep s with
    | .next t => seqRun n t
    | .fault r => .fault r
    | .refused r => .refused r

/-! ### Letting the instructions in flight complete, oldest first -/

/-- The state an outcome leads to, or `s` where there is none. -/
def outcomeState (s : State) : Outcome → State
  | .next t => t
  | .fault _ => s
  | .refused _ => s

/-- Applies `f` to a state in the running status and leaves a stopped one as it is. -/
def ifRunning (s : State) (f : State → State) : State := if s.running then f s else s

/-- The instruction in MEM/WB completed: its WB work (R135), and the retirement of a HALT (R105). -/
def completeMEMWB (memwb : MEMWB) (s : State) : State :=
  if (decode memwb.instr).isHalt then outcomeState s (execHalt s)
  else
    match (decode memwb.instr).dest with
    | some d => outcomeState s (settle s ((writeReg s.regs d memwb.writeData).map s.setRegs))
    | none => s

/-- The instruction in EX/MEM completed: its MEM work (R133), then its WB work. A BEQ has nothing left to do there. -/
def completeEXMEM (exmem : EXMEM) (s : State) : State :=
  if (decode exmem.instr).memRead then
    match memRead s.memSize s.dmem exmem.aluResult with
    | .ok v => completeMEMWB { instr := exmem.instr, writeData := v } s
    | .error f => s.takeFault f
  else if (decode exmem.instr).memWrite then
    outcomeState s (settle s ((memWrite s.memSize s.dmem exmem.aluResult exmem.readRegB).map s.setDmem))
  else completeMEMWB { instr := exmem.instr, writeData := exmem.aluResult } s

/-- A word in ID/EX or IF/ID completed, by its architectural effect at its own address, which is `pcPlus1` less 1. -/
def completeWord (w pcPlus1 : Word) (s : State) : State :=
  outcomeState s (exec (decode w) (s.setPc (pcPlus1 - 1#32)))

/-- The word is a BEQ that is taken in `s` (R100). -/
def branchesIn (w : Word) (s : State) : Bool :=
  branchOutcome (decode w) (s.reg (regA w)) (s.reg (regB w))

/-- `s` after its MEM/WB instruction. -/
def afterMEMWB (s : State) : State := ifRunning s (completeMEMWB s.memwb)

/-- `s` after its MEM/WB and EX/MEM instructions. -/
def afterEXMEM (s : State) : State := ifRunning (afterMEMWB s) (completeEXMEM s.exmem)

/-- `s` after its MEM/WB, EX/MEM and ID/EX instructions. -/
def afterIDEX (s : State) : State := ifRunning (afterEXMEM s) (completeWord s.idex.instr s.idex.pcPlus1)

/-- `s` after all four instructions in flight. -/
def afterIFID (s : State) : State := ifRunning (afterIDEX s) (completeWord s.ifid.instr s.ifid.pcPlus1)

/-- The program-order state a pipeline state stands for: the instructions in flight completed oldest first, none of those
behind a taken BEQ, a HALT or a fault (DEDUCED, log 10, safe). -/
def inOrder (s : State) : State :=
  if takenBranch s then (afterEXMEM s).setPc s.exmem.branchTarget
  else if branchesIn s.idex.instr (afterEXMEM s) then afterIDEX s
  else if branchesIn s.ifid.instr (afterIDEX s) then afterIFID s
  else (afterIFID s).setPc s.pc

/-- The cycle that runs on `s` brings the program-order execution one instruction further: nothing in flight has stopped
it, the cycle does not stall, and the word it fetches is not on the wrong path of a BEQ still in ID/EX or IF/ID. -/
def fetchesInOrder (s : State) : Bool :=
  (inOrder s).running &&
    (takenBranch s ||
      (!loadUseStall s.ifid s.idex && !branchesIn s.idex.instr (afterEXMEM s) && !branchesIn s.ifid.instr (afterIDEX s)))

/-- What a program can tell of a state of the program-order execution: the registers, both memories, how it stopped, and
while it has not, where it goes on. -/
structure ProgramView where
  memSize : Nat
  imem : Memory
  dmem : Memory
  regs : Vector Word 8
  halted : Bool
  fault : Option MachineFault
  pc : Option Word
deriving DecidableEq, Repr

/-- The program's view of a state. -/
def programView (s : State) : ProgramView :=
  { memSize := s.memSize
    imem := s.imem
    dmem := s.dmem
    regs := s.regs
    halted := s.halted
    fault := s.fault
    pc := if s.running then some s.pc else none }

end Sys2Proof.Machine
end

