-- ==== Sys2Proof/Safety.lean ====
section
/-! DEFINITION. What counts as a safe run, and the invariants of the machine, in the terms the statements use. -/

namespace Sys2Proof.Safety

open Sys2Proof.Machine

/-- No machine fault has ended the run (R20, R184). -/
abbrev FaultFree (s : State) : Prop := s.fault = none

/-- The parameter `MEMSIZE` is in its range (R5). -/
abbrev SizeAllowed (s : State) : Prop := memSizeAllowed s.memSize = true

/-- Both memories are in canonical form and list no address outside the array (R15, R16). -/
abbrev MemoriesCanonical (s : State) : Prop :=
  s.imem.wf ∧ s.dmem.wf ∧ s.imem.within s.memSize ∧ s.dmem.within s.memSize

/-- `u(pc) <= MEMSIZE`, in every committed state (R13). -/
abbrev PcInRange (s : State) : Prop := s.pc.toNat ≤ s.memSize

/-- `pc` is IF/ID's `pcPlus1`: both are written by the same fetch and held by the same stall (R125, R126). -/
abbrev PcTracksIFID (s : State) : Prop := s.pc = s.ifid.pcPlus1

/-- `eq` is false in an EX/MEM latch that does not hold a BEQ (R131, R172). -/
abbrev EqOnlyForBeq (s : State) : Prop := s.exmem.eq = true → (decode s.exmem.instr).isBranch = true

/-- ID/EX's `offset` is the extended trailing field of its word (R23); a bubble's is 0, as is `NOOPW`'s field. -/
abbrev OffsetDecoded (s : State) : Prop := s.idex.offset = sext16 (imm16 s.idex.instr)

/-- The invariant of R157: the instruction directly behind an LW in EX/MEM does not read the LW's destination. -/
abbrev NoLoadUseBehindLoad (s : State) : Prop :=
  (decode s.exmem.instr).memRead = true → readsReg s.idex.instr (regB s.exmem.instr) = false

/-- A value in WB/END that can be forwarded is the value its register holds (R136, R137). -/
abbrev RetiredValueWritten (s : State) : Prop :=
  ∀ r : RegIdx, forwardsTo s.wbend.instr r = true → s.reg r = s.wbend.writeData

/-- No latch ahead of ID/EX is still to supply register `r`. -/
abbrev NoSourceFor (s : State) (r : RegIdx) : Prop :=
  forwardsTo s.exmem.instr r = false ∧ forwardsTo s.memwb.instr r = false ∧ forwardsTo s.wbend.instr r = false

/-- An operand snapshot in ID/EX that is read and that no source will override is the register's value (R137, R167). -/
abbrev SnapshotsFresh (s : State) : Prop :=
  ((decode s.idex.instr).readsA = true → NoSourceFor s (regA s.idex.instr) →
      s.idex.readRegA = s.reg (regA s.idex.instr)) ∧
  ((decode s.idex.instr).readsB = true → NoSourceFor s (regB s.idex.instr) →
      s.idex.readRegB = s.reg (regB s.idex.instr))

/-- The state's static part: the size, the memories and the program counter. -/
abbrev StorageInv (s : State) : Prop := SizeAllowed s ∧ MemoriesCanonical s ∧ PcInRange s

/-- The pipeline's part: what makes forwarding and the one stall deliver program-order values. -/
abbrev HazardInv (s : State) : Prop :=
  EqOnlyForBeq s ∧ OffsetDecoded s ∧ NoLoadUseBehindLoad s ∧ RetiredValueWritten s ∧ SnapshotsFresh s

/-- Every instruction in flight is a no-op: the pipeline as reset leaves it (R30, R201). -/
abbrev PipelineEmpty (s : State) : Prop :=
  s.ifid.instr = noopW ∧ s.idex.instr = noopW ∧ s.exmem.instr = noopW ∧ s.memwb.instr = noopW ∧ s.wbend.instr = noopW

/-! ### Frames: what an instruction's own effect leaves unchanged -/

/-- The four latches of the instructions in flight are unchanged. -/
abbrev InFlightKept (s t : State) : Prop :=
  t.ifid = s.ifid ∧ t.idex = s.idex ∧ t.exmem = s.exmem ∧ t.memwb = s.memwb

/-- `MEMSIZE`, the instruction memory, the cycle counter and the fault record are unchanged. -/
abbrev ControlKept (s t : State) : Prop :=
  t.memSize = s.memSize ∧ t.imem = s.imem ∧ t.cycles = s.cycles ∧ t.fault = s.fault

/-- Every word of data memory reads as before. -/
abbrev DataMemoryKept (s t : State) : Prop := ∀ a : Nat, t.dmem.read a = s.dmem.read a

/-- Every general register reads as before. -/
abbrev RegistersKept (s t : State) : Prop := ∀ r : RegIdx, t.reg r = s.reg r

/-- A cycle that ran on `s` committed `t` (R113): it had a next state and raised no fault. -/
abbrev Commits (s t : State) : Prop := step s = .next t ∧ t.fault = none

/-! ### The terms of the cycle-count formula (R220) -/

/-- The program-order execution of `n` instructions from `s`, each state with the word executed in it. -/
def executed : Nat → State → List (State × Word)
  | 0, _ => []
  | n + 1, s =>
    match seqStep s with
    | .next t => (s, s.imem.read s.pc.toNat) :: executed n t
    | .fault _ => []
    | .refused _ => []

/-- `L` of R220: how many executed instructions directly follow an LW and read its destination register. -/
def loadUsePairs : List (State × Word) → Nat
  | (_, v) :: (s, w) :: rest =>
    (if (decode v).memRead && readsReg w (regB v) then 1 else 0) + loadUsePairs ((s, w) :: rest)
  | _ => 0

/-- `B` of R220: how many executed instructions are BEQs that are taken. -/
def takenBeqs (l : List (State × Word)) : Nat := l.countP fun p => branchesIn p.2 p.1

end Sys2Proof.Safety
end

