-- ==== Sys2Proof/Certificates/Slice0/Obligations.lean ====
section
/-! DEFINITION. The statements about the machine that the provers are to prove, from the spec's numbered rules. -/

open Sys2Proof Sys2Proof.Machine Sys2Proof.Safety

/-! ### Encoding (30_encoding.md) -/

/-- Decoding the canonical word of any instruction, with every operand at every value, gives it back (R83, R61 to R67). -/
def Obligations.DecodeEncodeEveryInstruction : Prop := ∀ i : Instr, decode (encode i) = i

/-- R83: the encoding function as a number, its upper bits, its examples, and the four fields read back. -/
def Obligations.EncodeFieldsReadBack : Prop :=
  (∀ (o : BitVec 3) (a b : RegIdx) (f : Field16),
    (encodeFields o a b f).toNat = o.toNat <<< 22 ||| a.toNat <<< 19 ||| b.toNat <<< 16 ||| f.toNat ∧
    (encodeFields o a b f).extractLsb' 25 7 = 0#7 ∧
    opField (encodeFields o a b f) = o ∧ regA (encodeFields o a b f) = a ∧
    regB (encodeFields o a b f) = b ∧ imm16 (encodeFields o a b f) = f) ∧
  encodeFields 2#3 0#3 1#3 6#16 = 8454150#32 ∧ encodeFields 0#3 1#3 2#3 3#16 = 655363#32 ∧
  encodeFields 4#3 0#3 0#3 (BitVec.ofInt 16 (-4)) = 16842748#32

/-- R67: the opcode field alone selects the instruction, by the eight match values under one mask. -/
def Obligations.DecodingFollowsTheOpcodeMap : Prop :=
  ∀ w : Word,
    (w &&& 0x01C00000#32 = 0x00000000#32 → decode w = .add (regA w) (regB w) (imm16 w)) ∧
    (w &&& 0x01C00000#32 = 0x00400000#32 → decode w = .nor (regA w) (regB w) (imm16 w)) ∧
    (w &&& 0x01C00000#32 = 0x00800000#32 → decode w = .lw (regA w) (regB w) (imm16 w)) ∧
    (w &&& 0x01C00000#32 = 0x00C00000#32 → decode w = .sw (regA w) (regB w) (imm16 w)) ∧
    (w &&& 0x01C00000#32 = 0x01000000#32 → decode w = .beq (regA w) (regB w) (imm16 w)) ∧
    (w &&& 0x01C00000#32 = 0x01400000#32 → decode w = .jalr) ∧
    (w &&& 0x01C00000#32 = 0x01800000#32 → decode w = .halt) ∧
    (w &&& 0x01C00000#32 = 0x01C00000#32 → decode w = .noop)

/-- R70: two words that agree on bits 24 to 0 decode to the same instruction. -/
def Obligations.DecodingIgnoresBits31To25 : Prop :=
  ∀ v w : Word, v.extractLsb' 0 25 = w.extractLsb' 0 25 → decode v = decode w

/-- Words of the decode table of 95_test_vectors.md section 2.1, one of each opcode and the odd ones. -/
def Obligations.WrittenOutWordsDecode : Prop :=
  decode 0x000A0003#32 = .add 1#3 2#3 3#16 ∧ decode 0x004A0003#32 = .nor 1#3 2#3 3#16 ∧
  decode 0x00810006#32 = .lw 0#3 1#3 6#16 ∧ decode 0x00C10006#32 = .sw 0#3 1#3 6#16 ∧
  decode 0x0100FFFC#32 = .beq 0#3 0#3 0xFFFC#16 ∧ decode 0x014A0000#32 = .jalr ∧
  decode 0x01800000#32 = .halt ∧ decode 0x01C00000#32 = .noop ∧
  decode 0xFFFFFFFF#32 = .noop ∧ decode 0xFE810006#32 = .lw 0#3 1#3 6#16

/-- R65: the offset, read as signed, is the trailing field read as signed, in -32768 to 32767. -/
def Obligations.SignExtensionKeepsTheSignedValue : Prop :=
  ∀ v : Field16, (sext16 v).toInt = v.toInt ∧ -32768 ≤ (sext16 v).toInt ∧ (sext16 v).toInt ≤ 32767

/-! ### What each instruction does (40_arithmetic.md to 43_system.md) -/

/-- R90: ADD with a destination that exists completes; its result, its `pc`, and what it leaves unchanged. -/
def Obligations.AddWritesTheSum : Prop :=
  ∀ (a b : RegIdx) (d : Field16) (s : State), d.toNat < 8 →
    ∃ t : State, exec (.add a b d) s = .next t ∧
      (∀ r : RegIdx, t.reg r = if r.toNat = d.toNat then s.reg a + s.reg b else s.reg r) ∧
      t.pc = s.pc + 1#32 ∧ DataMemoryKept s t ∧ InFlightKept s t ∧ t.wbend = s.wbend ∧ ControlKept s t

/-- R91: NOR with a destination that exists completes; its result, its `pc`, and what it leaves unchanged. -/
def Obligations.NorWritesTheNor : Prop :=
  ∀ (a b : RegIdx) (d : Field16) (s : State), d.toNat < 8 →
    ∃ t : State, exec (.nor a b d) s = .next t ∧
      (∀ r : RegIdx, t.reg r = if r.toNat = d.toNat then ~~~(s.reg a ||| s.reg b) else s.reg r) ∧
      t.pc = s.pc + 1#32 ∧ DataMemoryKept s t ∧ InFlightKept s t ∧ t.wbend = s.wbend ∧ ControlKept s t

/-- R74, R90, R91: an ADD or NOR whose destination index is 8 or more raises `RegIndexOutOfBounds` and changes nothing
else. That program order takes the fault with `pc` unmoved is the model's reading, log 3 and log 4. -/
def Obligations.AddAndNorFaultOnAMissingRegister : Prop :=
  ∀ (a b : RegIdx) (d : Field16) (s : State), 8 ≤ d.toNat →
    exec (.add a b d) s = .next { s with fault := some (.regIndexOutOfBounds d.toNat) } ∧
    exec (.nor a b d) s = .next { s with fault := some (.regIndexOutOfBounds d.toNat) }

/-- R95: LW from an address in bounds completes; its result, its `pc`, and what it leaves unchanged. -/
def Obligations.LwLoadsTheWord : Prop :=
  ∀ (a b : RegIdx) (off : Field16) (s : State), (effectiveAddress (s.reg a) off).toNat < s.memSize →
    ∃ t : State, exec (.lw a b off) s = .next t ∧
      (∀ r : RegIdx, t.reg r =
        if r = b then s.dmem.read (effectiveAddress (s.reg a) off).toNat else s.reg r) ∧
      t.pc = s.pc + 1#32 ∧ DataMemoryKept s t ∧ InFlightKept s t ∧ t.wbend = s.wbend ∧ ControlKept s t

/-- R96: SW to an address in bounds completes; the one word it stores, its `pc`, and what it leaves unchanged. The
premise is the canonical form of memory, an invariant (StorageInvariantKept). -/
def Obligations.SwStoresTheWord : Prop :=
  ∀ (a b : RegIdx) (off : Field16) (s : State), s.dmem.wf → (effectiveAddress (s.reg a) off).toNat < s.memSize →
    ∃ t : State, exec (.sw a b off) s = .next t ∧
      (∀ n : Nat, t.dmem.read n =
        if n = (effectiveAddress (s.reg a) off).toNat then s.reg b else s.dmem.read n) ∧
      t.pc = s.pc + 1#32 ∧ RegistersKept s t ∧ InFlightKept s t ∧ t.wbend = s.wbend ∧ ControlKept s t

/-- R95, R96: an LW or SW whose address is out of bounds raises `DataAddressOutOfBounds` and changes nothing else.
That program order takes the fault with `pc` unmoved is the model's reading, log 3 and log 4. -/
def Obligations.LwAndSwFaultOutOfBounds : Prop :=
  ∀ (a b : RegIdx) (off : Field16) (s : State), s.memSize ≤ (effectiveAddress (s.reg a) off).toNat →
    exec (.lw a b off) s =
      .next { s with fault := some (.dataAddressOutOfBounds (effectiveAddress (s.reg a) off)) } ∧
    exec (.sw a b off) s =
      .next { s with fault := some (.dataAddressOutOfBounds (effectiveAddress (s.reg a) off)) }

/-- R97: the effective address is the base plus the signed displacement, modulo 2^32, and so is a branch target. -/
def Obligations.AddressesAreSignedSumsModulo : Prop :=
  ∀ (base : Word) (off : Field16),
    ((effectiveAddress base off).toNat : Int) = ((base.toNat : Int) + off.toInt) % 2 ^ 32 ∧
    ((branchTarget base off).toNat : Int) = ((base.toNat : Int) + off.toInt) % 2 ^ 32

/-- R100: BEQ completes in every state; where `pc` goes, taken or not, and that nothing else changes. -/
def Obligations.BeqMovesPcOnly : Prop :=
  ∀ (a b : RegIdx) (off : Field16) (s : State),
    ∃ t : State, exec (.beq a b off) s = .next t ∧
      t.pc = (if s.reg a = s.reg b then s.pc + 1#32 + off.signExtend 32 else s.pc + 1#32) ∧
      RegistersKept s t ∧ DataMemoryKept s t ∧ InFlightKept s t ∧ t.wbend = s.wbend ∧ ControlKept s t

/-- R101, R106: JALR and NOOP complete in every state and move `pc` to the next word; nothing else changes. -/
def Obligations.JalrAndNoopOnlyAdvance : Prop :=
  ∀ s : State,
    exec .jalr s = .next { s with pc := s.pc + 1#32 } ∧ exec .noop s = .next { s with pc := s.pc + 1#32 }

/-- R105: HALT completes in every state; `halted` is then true, and no register, memory word or other latch changes. What
WB/END holds beside the HALT's opcode, and that `pc` stays at the HALT, are the model's choice, log 5. -/
def Obligations.HaltHaltsAndWritesNothing : Prop :=
  ∀ s : State, ∃ t : State, exec .halt s = .next t ∧
    t.halted = true ∧ t.wbend = { instr := haltW, writeData := 0#32 } ∧ t.pc = s.pc ∧
    RegistersKept s t ∧ DataMemoryKept s t ∧ InFlightKept s t ∧ ControlKept s t

/-- R48, P3 §8 round trip: an SW followed by an LW of the same base and displacement leaves the stored value in the
loaded register, for every choice of registers. -/
def Obligations.StoreThenLoadReturnsTheStoredWord : Prop :=
  ∀ (a b c : RegIdx) (off : Field16) (s : State), s.dmem.wf → (effectiveAddress (s.reg a) off).toNat < s.memSize →
    ∃ t u : State, exec (.sw a b off) s = .next t ∧ exec (.lw a c off) t = .next u ∧ u.reg c = s.reg b

/-! ### Reset and the run status (10_state.md, 70_reset_and_hazards.md) -/

/-- R30: the reset state, every component, for every `MEMSIZE` and image that can be loaded. -/
def Obligations.ResetLoadsEveryComponent : Prop :=
  ∀ (memSize : Nat) (image : List Word) (s : State), State.load memSize image = some s →
    s.pc = 0#32 ∧
    (∀ (a : Nat) (h : a < image.length), s.imem.read a = image[a] ∧ s.dmem.read a = image[a]) ∧
    (∀ a : Nat, image.length ≤ a → s.imem.read a = 0#32 ∧ s.dmem.read a = 0#32) ∧
    (∀ r : RegIdx, s.reg r = 0#32) ∧ s.cycles = 0 ∧
    s.ifid = { instr := 0x01C00000#32, pcPlus1 := 0#32 } ∧
    s.idex = { instr := 0x01C00000#32, pcPlus1 := 0#32, readRegA := 0#32, readRegB := 0#32, offset := 0#32 } ∧
    s.exmem = { instr := 0x01C00000#32, branchTarget := 0#32, eq := false, aluResult := 0#32, readRegB := 0#32 } ∧
    s.memwb = { instr := 0x01C00000#32, writeData := 0#32 } ∧
    s.wbend = { instr := 0x01C00000#32, writeData := 0#32 } ∧
    s.fault = none ∧ s.memSize = memSize ∧ s.status = .running

/-- R5, R194: there is an initial state exactly for a size in range and an image that fits it. -/
def Obligations.OnlyFittingImagesLoad : Prop :=
  ∀ (memSize : Nat) (image : List Word),
    (∃ s : State, State.load memSize image = some s) ↔
      1 ≤ memSize ∧ memSize ≤ 2 ^ 31 ∧ image.length ≤ memSize

/-- R201: the first cycle after reset fetches word 0; the committed state differs from the reset state in `pc`, IF/ID
and `cycles` only. -/
def Obligations.FirstCycleFetchesWordZero : Prop :=
  ∀ (memSize : Nat) (image : List Word) (s : State), State.load memSize image = some s →
    step s = .next { s with pc := 1#32, cycles := 1, ifid := { instr := s.imem.read 0, pcPlus1 := 1#32 } }

/-- R116, U12, U13: a running machine always has a next state, a halted or faulted one never, and no step is refused. -/
def Obligations.OnlyStoppedMachinesHaveNoNextState : Prop :=
  ∀ s : State,
    (s.status = .running → ∃ t : State, step s = .next t) ∧
    (s.status = .halted → step s = .fault .halted) ∧
    (∀ f : MachineFault, s.fault = some f → step s = .fault (.faulted f))

/-! ### One clock cycle (44_cycle_driver.md, 45_pipeline_stages.md) -/

/-- A step runs what the decoder reads in each latch. For a committed cycle of a state with no taken BEQ in EX/MEM, every
latch as its stage writes it: the fetch at `pc` (R125); the whole ID/EX, with the registers as they are at the start of
the cycle, so that the write WB makes in this cycle is not seen (R127, R137); the work of EX, MEM and WB on the decoded
instruction of each latch (R130 to R136). -/
def Obligations.StepRunsTheDecodedInstructions : Prop :=
  ∀ s t : State, Commits s t → takenBranch s = false →
    (loadUseStall s.ifid s.idex = false →
      s.pc.toNat < s.memSize ∧ t.ifid = { instr := s.imem.read s.pc.toNat, pcPlus1 := s.pc + 1#32 } ∧
      t.pc = s.pc + 1#32 ∧
      t.idex =
        { instr := s.ifid.instr
          pcPlus1 := s.ifid.pcPlus1
          readRegA := s.reg (regA s.ifid.instr)
          readRegB := s.reg (regB s.ifid.instr)
          offset := sext16 (imm16 s.ifid.instr) }) ∧
    t.exmem.instr = s.idex.instr ∧ t.exmem.branchTarget = s.idex.pcPlus1 + s.idex.offset ∧
    t.exmem.readRegB = operandB s ∧
    (t.exmem.eq = true ↔ (∃ a b off, decode s.idex.instr = .beq a b off) ∧ operandA s = operandB s) ∧
    (∀ a b d, decode s.idex.instr = .add a b d → t.exmem.aluResult = operandA s + operandB s) ∧
    (∀ a b d, decode s.idex.instr = .nor a b d → t.exmem.aluResult = ~~~(operandA s ||| operandB s)) ∧
    (∀ a b off, decode s.idex.instr = .lw a b off → t.exmem.aluResult = operandA s + s.idex.offset) ∧
    (∀ a b off, decode s.idex.instr = .sw a b off → t.exmem.aluResult = operandA s + s.idex.offset) ∧
    (∀ a b off, decode s.idex.instr = .beq a b off → t.exmem.aluResult = s.idex.pcPlus1 + s.idex.offset) ∧
    (decode s.idex.instr = .jalr ∨ decode s.idex.instr = .halt ∨ decode s.idex.instr = .noop →
      t.exmem.aluResult = 0#32) ∧
    t.memwb.instr = s.exmem.instr ∧
    (∀ a b off, decode s.exmem.instr = .lw a b off → t.memwb.writeData = s.dmem.read s.exmem.aluResult.toNat) ∧
    ((decode s.exmem.instr).memRead = false → t.memwb.writeData = s.exmem.aluResult) ∧
    (∀ a b off, decode s.exmem.instr = .sw a b off →
      t.dmem = s.dmem.write s.exmem.aluResult.toNat s.exmem.readRegB) ∧
    ((decode s.exmem.instr).memWrite = false → t.dmem = s.dmem) ∧
    t.wbend = { instr := s.memwb.instr, writeData := s.memwb.writeData } ∧
    (∀ d, (decode s.memwb.instr).dest = some d →
      ∃ h : d < 8, t.regs = s.regs.set d s.memwb.writeData h) ∧
    ((decode s.memwb.instr).dest = none → t.regs = s.regs) ∧
    (decode s.memwb.instr = .halt → t.halted = true)

/-- The word stored by `withFetchWord` is the word the next cycle of a running, unstalled machine fetches (log 2). -/
def Obligations.StoredFetchWordIsFetchedNext : Prop :=
  ∀ (s : State) (nbits w : Nat) (t : State), s.imem.wf → stalls (flushAdjust s) = false →
    Commits (s.withFetchWord nbits w) t → t.ifid.instr = tableWord nbits w

/-- The word that `withFetchWord` places on the reset state is the first instruction that runs (R201): the very next step
fetches it into IF/ID, its memory work is done after four steps, its register write and a HALT after five, as `exec` says.
The hypotheses are that its effect raises no fault and, where it is a taken BEQ, that its target can be fetched. That the
placing stands for the loader, and the size and image of `State.reset`, are the model's choice, logs 1 and 2. -/
def Obligations.PlacedWordRunsFirstFromReset : Prop :=
  ∀ (nbits w : Nat) (i : Instr) (e : State), decodeTableWord nbits w = some i →
    exec i (State.reset.withFetchWord nbits w) = .next e → e.fault = none → e.pc.toNat < Config.defaultMemSize →
    ∃ u t v : State, step (State.reset.withFetchWord nbits w) = .next u ∧
      u.ifid = { instr := tableWord nbits w, pcPlus1 := 1#32 } ∧ decode u.ifid.instr = i ∧
      Host.Core.run Sys2Proof.core 4 (State.reset.withFetchWord nbits w) = .next t ∧ t.dmem = e.dmem ∧
      Commits t v ∧ v.regs = e.regs ∧ v.halted = e.halted

/-- R114: every committed cycle adds exactly 1 to `cycles`, a cycle that faults adds nothing, and no cycle is executed
in the halted or faulted status. -/
def Obligations.EveryCommittedCycleCountsOne : Prop :=
  ∀ s t : State, step s = .next t →
    s.status = .running ∧ (t.fault = none → t.cycles = s.cycles + 1) ∧ (t.fault ≠ none → t.cycles = s.cycles)

/-- R117: a cycle that faults changes `fault` and nothing else, and the machine is then stopped. -/
def Obligations.FaultingCycleChangesOnlyTheFault : Prop :=
  ∀ (s t : State) (f : MachineFault), step s = .next t → t.fault = some f →
    t = { s with fault := some f } ∧ step t = .fault (.faulted f)

/-- R182, R183, R185: which fault a cycle of a running machine raises, the oldest instruction's first, and that it
raises none otherwise. -/
def Obligations.OldestFaultIsRecorded : Prop :=
  ∀ s : State, s.status = .running →
    ∃ t : State, step s = .next t ∧
      (((decode s.memwb.instr).aluSel = .addAB ∨ (decode s.memwb.instr).aluSel = .norAB) ∧
          8 ≤ (imm16 s.memwb.instr).toNat →
        t.fault = some (.regIndexOutOfBounds (imm16 s.memwb.instr).toNat)) ∧
      (¬(((decode s.memwb.instr).aluSel = .addAB ∨ (decode s.memwb.instr).aluSel = .norAB) ∧
          8 ≤ (imm16 s.memwb.instr).toNat) →
        (((decode s.exmem.instr).aluSel = .addAOff ∧ s.memSize ≤ s.exmem.aluResult.toNat →
            t.fault = some (.dataAddressOutOfBounds s.exmem.aluResult)) ∧
          (¬((decode s.exmem.instr).aluSel = .addAOff ∧ s.memSize ≤ s.exmem.aluResult.toNat) →
            ((stalls (flushAdjust s) = false ∧ s.memSize ≤ (fetchAddress s).toNat →
                t.fault = some (.fetchOutOfBounds (fetchAddress s))) ∧
              (¬(stalls (flushAdjust s) = false ∧ s.memSize ≤ (fetchAddress s).toNat) → t.fault = none)))))

/-- R15, R50: no step changes instruction memory or its size: stores are never seen by instruction fetch. -/
def Obligations.InstructionMemoryNeverChanges : Prop :=
  ∀ s t : State, step s = .next t → t.imem = s.imem ∧ t.memSize = s.memSize

/-- R12, R135, R136: in a committed cycle the register that the ADD, NOR or LW in MEM/WB names takes MEM/WB's value, every
other register is unchanged, and WB/END takes the word and the value for every opcode. -/
def Obligations.OnlyWritebackChangesRegisters : Prop :=
  ∀ s t : State, Commits s t →
    (∀ r : RegIdx, t.reg r = if (decode s.memwb.instr).dest = some r.toNat then s.memwb.writeData else s.reg r) ∧
    t.wbend.instr = s.memwb.instr ∧ t.wbend.writeData = s.memwb.writeData

/-- R16, R133: in a committed cycle the word that an SW in EX/MEM addresses takes its store data, and every other word of
data memory is unchanged. -/
def Obligations.OnlyAStoreInMemChangesDataMemory : Prop :=
  ∀ s t : State, s.dmem.wf → Commits s t →
    ∀ n : Nat, t.dmem.read n =
      if (decode s.exmem.instr).memWrite = true ∧ n = s.exmem.aluResult.toNat then s.exmem.readRegB else s.dmem.read n

/-! ### Hazards, forwarding, branches (46_hazard_unit.md to 48_branch_flush.md) -/

/-- R150, R151: which registers the word in IF/ID reads, by its opcode, and exactly when the hazard unit stalls, decided on
the flush-adjusted latches, so never in a flush cycle. -/
def Obligations.StallExactlyOnLoadUse : Prop :=
  (∀ (w : Word) (r : RegIdx), readsReg w r = true ↔
    (∃ a b d, (decode w = .add a b d ∨ decode w = .nor a b d) ∧ (a = r ∨ b = r)) ∨
    (∃ a b off, decode w = .lw a b off ∧ a = r) ∨
    (∃ a b off, (decode w = .sw a b off ∨ decode w = .beq a b off) ∧ (a = r ∨ b = r))) ∧
  (∀ s : State, stalls (flushAdjust s) = true ↔
    takenBranch s = false ∧
      ∃ base dst off, decode s.idex.instr = .lw base dst off ∧ readsReg s.ifid.instr dst = true)

/-- R126, R128: a stalled cycle is no flush cycle, holds `pc` and IF/ID, raises no fetch fault, and commits a bubble into
ID/EX. -/
def Obligations.StalledCycleHoldsTheFrontEnd : Prop :=
  ∀ s t : State, stalls (flushAdjust s) = true → step s = .next t →
    takenBranch s = false ∧ t.pc = s.pc ∧ t.ifid = s.ifid ∧ (∀ a, t.fault ≠ some (.fetchOutOfBounds a)) ∧
    (t.fault = none → t.idex = bubbleIDEX)

/-- R153: the cycle after a stalled one does not stall. -/
def Obligations.StallLastsOneCycle : Prop :=
  ∀ s t : State, stalls (flushAdjust s) = true → Commits s t → stalls (flushAdjust t) = false

/-- R161, R162: a latch is a source for register `r` exactly where it holds an ADD or NOR whose whole destination index
is `r`, or an LW whose `regB` is `r`. -/
def Obligations.ForwardingSourcesMatchExactly : Prop :=
  ∀ (w : Word) (r : RegIdx), forwardsTo w r = true ↔
    (∃ a b d, (decode w = .add a b d ∨ decode w = .nor a b d) ∧ d.toNat = r.toNat) ∨
    (∃ a off, decode w = .lw a r off)

/-- R163: the selection of the forwarding network, the youngest source that matches first. -/
def Obligations.ForwardingPicksTheYoungestSource : Prop :=
  ∀ (r : RegIdx) (v : Word) (m : EXMEM) (w : MEMWB) (e : WBEND),
    (forwardsTo m.instr r = true → fwd r v m w e = m.aluResult) ∧
    (forwardsTo m.instr r = false → forwardsTo w.instr r = true → fwd r v m w e = w.writeData) ∧
    (forwardsTo m.instr r = false → forwardsTo w.instr r = false → forwardsTo e.instr r = true →
      fwd r v m w e = e.writeData) ∧
    (forwardsTo m.instr r = false → forwardsTo w.instr r = false → forwardsTo e.instr r = false → fwd r v m w e = v)

/-- R173, R174: a cycle that flushes and commits fetches the target, leaves no-ops in ID/EX, EX/MEM and MEM/WB, lets the
instruction in MEM/WB retire, and touches no data memory, whatever ID/EX and IF/ID held. -/
def Obligations.FlushCycleFetchesTheTarget : Prop :=
  ∀ s t : State, takenBranch s = true → Commits s t →
    stalls (flushAdjust s) = false ∧ s.exmem.branchTarget.toNat < s.memSize ∧
    t.pc = s.exmem.branchTarget + 1#32 ∧
    t.ifid = { instr := s.imem.read s.exmem.branchTarget.toNat, pcPlus1 := s.exmem.branchTarget + 1#32 } ∧
    t.idex = { instr := noopW, pcPlus1 := 0#32, readRegA := s.reg 0#3, readRegB := s.reg 0#3, offset := 0#32 } ∧
    t.exmem.instr = noopW ∧ t.exmem.branchTarget = 0#32 ∧ t.exmem.eq = false ∧ t.exmem.aluResult = 0#32 ∧
    t.exmem.readRegB = fwd 0#3 0#32 bubbleEXMEM s.memwb s.wbend ∧
    t.memwb = { instr := noopW, writeData := 0#32 } ∧
    t.wbend = { instr := s.memwb.instr, writeData := s.memwb.writeData } ∧ t.dmem = s.dmem

/-- R176: the instructions that a flush discards leave no trace: a committing flush cycle gives the same next state
whatever IF/ID, ID/EX and `pc` held. -/
def Obligations.SquashedInstructionsLeaveNoTrace : Prop :=
  ∀ (s t : State) (pc : Word) (ifid : IFID) (idex : IDEX), takenBranch s = true → Commits s t →
    step { s with pc := pc, ifid := ifid, idex := idex } = .next t

/-- R178: a taken BEQ flushes once, and none of the two states after its flush cycle flushes. -/
def Obligations.OneTakenBranchFlushesOnce : Prop :=
  ∀ s t u : State, takenBranch s = true → Commits s t → Commits t u →
    takenBranch t = false ∧ takenBranch u = false

/-- R171, R175: a BEQ in ID/EX whose resolved operands are equal has its target fetched in the second cycle from then,
whatever follows it in IF/ID. -/
def Obligations.TakenBranchFetchesItsTargetOneCycleAfterEx : Prop :=
  ∀ (s t u : State) (a b : RegIdx) (off : Field16), takenBranch s = false → decode s.idex.instr = .beq a b off →
    operandA s = operandB s → Commits s t → Commits t u →
    takenBranch t = true ∧ u.pc = s.idex.pcPlus1 + s.idex.offset + 1#32 ∧
    u.ifid.instr = s.imem.read (s.idex.pcPlus1 + s.idex.offset).toNat

/-! ### HALT (43_system.md) -/

/-- R105, R115: a HALT in ID/EX on the right path has halted the machine after three committed cycles. -/
def Obligations.HaltInIdExHaltsInThreeCycles : Prop :=
  ∀ s t u v : State, takenBranch s = false → decode s.idex.instr = .halt →
    Commits s t → Commits t u → Commits u v → v.status = .halted ∧ v.cycles = s.cycles + 3

/-- R105, R211: the SW directly behind a HALT does store, in the cycle that halts the machine; no register changes. -/
def Obligations.StoreBehindHaltStillStores : Prop :=
  ∀ (s : State) (a b : RegIdx) (off : Field16), s.status = .running → s.dmem.wf →
    decode s.memwb.instr = .halt → decode s.exmem.instr = .sw a b off →
    s.exmem.aluResult.toNat < s.memSize → s.pc.toNat < s.memSize →
    ∃ t : State, step s = .next t ∧ t.status = .halted ∧ RegistersKept s t ∧
      ∀ n : Nat, t.dmem.read n = if n = s.exmem.aluResult.toNat then s.exmem.readRegB else s.dmem.read n

/-! ### Invariants that every step keeps -/

/-- R5, R13, R15, R16: the size stays in range, both memories keep their canonical form within it, and
`u(pc) <= MEMSIZE` in every committed state. -/
def Obligations.StorageInvariantKept : Prop :=
  ∀ s t : State, StorageInv s → step s = .next t → StorageInv t

/-- The storage invariant holds after reset with any image (R30). -/
def Obligations.StorageInvariantAtReset : Prop :=
  StorageInv State.reset ∧
  ∀ (memSize : Nat) (image : List Word) (s : State), State.load memSize image = some s → StorageInv s

/-- R131, R157, R137: `eq` is false but for a BEQ, no instruction directly behind an LW reads its destination, WB/END's
value is in the register file, and a snapshot no source overrides is current. -/
def Obligations.HazardInvariantKept : Prop :=
  ∀ s t : State, HazardInv s → step s = .next t → HazardInv t

/-- The hazard invariant holds after reset with any image (R30). -/
def Obligations.HazardInvariantAtReset : Prop :=
  HazardInv State.reset ∧
  ∀ (memSize : Nat) (image : List Word) (s : State), State.load memSize image = some s → HazardInv s

/-- R14, R22: `pc` is IF/ID's `pcPlus1` in every state a run reaches: it holds after reset with any image, and every step
keeps it. -/
def Obligations.PcIsTheFetchedAddressPlusOne : Prop :=
  PcTracksIFID State.reset ∧
  (∀ (memSize : Nat) (image : List Word) (s : State), State.load memSize image = some s → PcTracksIFID s) ∧
  ∀ s t : State, PcTracksIFID s → step s = .next t → PcTracksIFID t

/-! ### Whole-machine rules -/

/-- R33: no don't-care field influences anything but don't-care fields. Two states that differ in don't-care fields alone
have the same outcome, and next states that differ in don't-care fields alone. -/
def Obligations.DontCareFieldsInfluenceNothing : Prop :=
  ∀ s s' t : State, maskDontCare s = maskDontCare s' → step s = .next t →
    ∃ t' : State, step s' = .next t' ∧ maskDontCare t = maskDontCare t'

/-- R167: the operands that EX resolves are the values program order gives: those after the older instructions in flight
have completed. -/
def Obligations.ForwardingDeliversProgramOrderValues : Prop :=
  ∀ s : State, HazardInv s → takenBranch s = false → (afterEXMEM s).running = true →
    ((decode s.idex.instr).readsA = true → operandA s = (afterEXMEM s).reg (regA s.idex.instr)) ∧
    ((decode s.idex.instr).readsB = true → operandB s = (afterEXMEM s).reg (regB s.idex.instr))

/-- R119, cycle by cycle: a committed cycle either runs exactly one more instruction of the program-order execution or
none, and which of the two is told by the stall, the branches in flight and the stop in flight. The one cycle left out is
that in which the SW directly behind a HALT stores (StoreBehindHaltStillStores). -/
def Obligations.EveryCycleRefinesProgramOrder : Prop :=
  ∀ s t : State, HazardInv s → Commits s t →
    ¬((decode s.memwb.instr).isHalt = true ∧ (decode s.exmem.instr).memWrite = true) →
    if fetchesInOrder s = true then
      ∃ u : State, seqStep (inOrder s) = .next u ∧ programView (inOrder t) = programView u
    else programView (inOrder t) = programView (inOrder s)

/-- R119 for a whole run: from reset with any image, a run that ends halted leaves the registers of the program-order
execution, and its data memory but for the one possible store of the word after the HALT, then in MEM/WB. -/
def Obligations.HaltedRunAgreesWithProgramOrder : Prop :=
  ∀ (memSize : Nat) (image : List Word) (s : State), State.load memSize image = some s →
    ∀ (k : Nat) (t : State), Host.Core.run Sys2Proof.core k s = .next t → t.status = .halted →
      ∃ (n : Nat) (u : State), seqRun n s = .next u ∧ u.status = .halted ∧ u.regs = t.regs ∧
        ((decode t.memwb.instr).memWrite = false → u.dmem = t.dmem) ∧
        (∀ a : Nat, ((decode t.memwb.instr).memWrite = true → a ≠ t.memwb.writeData.toNat) →
          u.dmem.read a = t.dmem.read a)

/-- R220: the final value of `cycles` of a run that halts is `N + L + 2*B + 4`. -/
def Obligations.HaltedRunCycleCount : Prop :=
  ∀ (memSize : Nat) (image : List Word) (s : State), State.load memSize image = some s →
    ∀ (k : Nat) (t : State), Host.Core.run Sys2Proof.core k s = .next t → t.status = .halted →
      ∃ (n : Nat) (u : State), seqRun n s = .next u ∧ u.status = .halted ∧
        t.cycles = n + loadUsePairs (executed n s) + 2 * takenBeqs (executed n s) + 4

/-- From an empty pipeline, five cycles do to registers, data memory, `pc` and the run status what the architectural
effect of the instruction at `pc` says (R119, R201, R221): its memory work is done after four cycles, its register write
and a HALT after five. Execution goes on at the effect's `pc`: the second cycle fetches there, but for a taken BEQ, whose
target the fourth cycle fetches, and for a HALT, after which nothing goes on. -/
def Obligations.EmptyPipelineRunsTheInstructionAtPc : Prop :=
  ∀ s t v : State, s.status = .running → PipelineEmpty s →
    Host.Core.run Sys2Proof.core 4 s = .next t → Commits t v →
    ∃ e : State, exec (decode (s.imem.read s.pc.toNat)) s = .next e ∧ e.fault = none ∧
      t.dmem = e.dmem ∧ v.regs = e.regs ∧ v.halted = e.halted ∧
      (branchesIn (s.imem.read s.pc.toNat) s = false → (decode (s.imem.read s.pc.toNat)).isHalt = false →
        ∃ u : State, Host.Core.run Sys2Proof.core 2 s = .next u ∧
          u.ifid = { instr := s.imem.read e.pc.toNat, pcPlus1 := e.pc + 1#32 } ∧ u.pc = e.pc + 1#32) ∧
      (branchesIn (s.imem.read s.pc.toNat) s = true →
        t.ifid = { instr := s.imem.read e.pc.toNat, pcPlus1 := e.pc + 1#32 } ∧ t.pc = e.pc + 1#32)
end

