-- ==== Sys2Proof/Laws/Decode.lean ====
section
/-! SUPPORT. Small lemmas of the decoder, its control outputs, the hazard unit and the forwarding network. -/

namespace Sys2Proof.Laws

open Sys2Proof.Machine

@[simp] theorem decode_noopW : decode noopW = .noop := by decide

@[simp] theorem decode_haltW : decode haltW = .halt := by decide

@[simp] theorem regA_noopW : regA noopW = 0#3 := by decide

@[simp] theorem regB_noopW : regB noopW = 0#3 := by decide

@[simp] theorem offset_noopW : sext16 (imm16 noopW) = 0#32 := by decide

/-- What a word decodes to: one of the eight, with the fields of the word (R67, R73). -/
theorem decode_cases (w : Word) :
    decode w = .add (regA w) (regB w) (imm16 w) ∨ decode w = .nor (regA w) (regB w) (imm16 w) ∨
    decode w = .lw (regA w) (regB w) (imm16 w) ∨ decode w = .sw (regA w) (regB w) (imm16 w) ∨
    decode w = .beq (regA w) (regB w) (imm16 w) ∨ decode w = .jalr ∨ decode w = .halt ∨ decode w = .noop := by
  unfold decode
  split <;> simp

/-- The fields of a word that decodes to an instruction with operands are the instruction's operands. -/
theorem fields_of_decode_lw {w : Word} {a b : RegIdx} {off : Field16} (h : decode w = .lw a b off) :
    regA w = a ∧ regB w = b ∧ imm16 w = off := by
  rcases decode_cases w with e | e | e | e | e | e | e | e <;> simp_all

theorem fields_of_decode_sw {w : Word} {a b : RegIdx} {off : Field16} (h : decode w = .sw a b off) :
    regA w = a ∧ regB w = b ∧ imm16 w = off := by
  rcases decode_cases w with e | e | e | e | e | e | e | e <;> simp_all

theorem fields_of_decode_beq {w : Word} {a b : RegIdx} {off : Field16} (h : decode w = .beq a b off) :
    regA w = a ∧ regB w = b ∧ imm16 w = off := by
  rcases decode_cases w with e | e | e | e | e | e | e | e <;> simp_all

theorem fields_of_decode_add {w : Word} {a b : RegIdx} {d : Field16} (h : decode w = .add a b d) :
    regA w = a ∧ regB w = b ∧ imm16 w = d := by
  rcases decode_cases w with e | e | e | e | e | e | e | e <;> simp_all

theorem fields_of_decode_nor {w : Word} {a b : RegIdx} {d : Field16} (h : decode w = .nor a b d) :
    regA w = a ∧ regB w = b ∧ imm16 w = d := by
  rcases decode_cases w with e | e | e | e | e | e | e | e <;> simp_all

/-- Only an LW reads memory (R68). -/
theorem memRead_iff (i : Instr) : i.memRead = true ↔ ∃ a b off, i = .lw a b off := by
  cases i <;> simp [Instr.memRead]

/-- Only an SW writes memory (R68). -/
theorem memWrite_iff (i : Instr) : i.memWrite = true ↔ ∃ a b off, i = .sw a b off := by
  cases i <;> simp [Instr.memWrite]

/-- Only a BEQ is a branch (R68). -/
theorem isBranch_iff (i : Instr) : i.isBranch = true ↔ ∃ a b off, i = .beq a b off := by
  cases i <;> simp [Instr.isBranch]

/-- Only a HALT halts (R68). -/
theorem isHalt_iff (i : Instr) : i.isHalt = true ↔ i = .halt := by
  cases i <;> simp [Instr.isHalt]

/-- A no-op is no forwarding source (R161). -/
@[simp] theorem forwardsTo_noopW (r : RegIdx) : forwardsTo noopW r = false := by
  simp [forwardsTo, Instr.dest]

/-- A no-op reads no register (R150). -/
@[simp] theorem readsReg_noopW (r : RegIdx) : readsReg noopW r = false := by
  simp [readsReg, Instr.readsA, Instr.readsB]

/-- A bubble in ID/EX stalls nothing (R153, R174). -/
@[simp] theorem loadUseStall_bubble (f : IFID) : loadUseStall f bubbleIDEX = false := by
  simp [loadUseStall, bubbleIDEX, Instr.memRead]

/-- What the forwarding network supplies: the youngest matching source, or the fallback (R163). -/
theorem fwd_cases (r : RegIdx) (v : Word) (e : EXMEM) (m : MEMWB) (w : WBEND) :
    (forwardsTo e.instr r = true ∧ fwd r v e m w = e.aluResult) ∨
    (forwardsTo e.instr r = false ∧ forwardsTo m.instr r = true ∧ fwd r v e m w = m.writeData) ∨
    (forwardsTo e.instr r = false ∧ forwardsTo m.instr r = false ∧ forwardsTo w.instr r = true ∧
      fwd r v e m w = w.writeData) ∨
    (forwardsTo e.instr r = false ∧ forwardsTo m.instr r = false ∧ forwardsTo w.instr r = false ∧
      fwd r v e m w = v) := by
  unfold fwd
  cases forwardsTo e.instr r <;> cases forwardsTo m.instr r <;> cases forwardsTo w.instr r <;> simp

end Sys2Proof.Laws
end

