-- ==== Sys2Proof/Laws/Memory.lean ====
section
/-! SUPPORT. The laws of a memory array: what a read gives after a write and after the loading of an image, and that every
operation keeps the canonical form. -/

namespace Sys2Proof.Laws

open Sys2Proof.Machine

/-- The canonical form of a list of cells, by its head. -/
theorem wf_cons {b : Nat} {u : Word} {rest : List (Nat × Word)} :
    (⟨(b, u) :: rest⟩ : Memory).wf ↔
      (∀ p ∈ rest, b < p.1) ∧ u ≠ Config.unlistedWord ∧ (⟨rest⟩ : Memory).wf := by
  simp only [Memory.wf, List.pairwise_cons, List.mem_cons, forall_eq_or_imp]
  tauto

/-- An address below every listed one reads as unlisted. -/
theorem cellsRead_of_lt {a : Nat} {l : List (Nat × Word)} (h : ∀ p ∈ l, a < p.1) :
    cellsRead l a = Config.unlistedWord := by
  induction l with
  | nil => rfl
  | cons p rest ih =>
    obtain ⟨b, u⟩ := p
    simp only [List.mem_cons, forall_eq_or_imp] at h
    have hne : b ≠ a := by omega
    simp [cellsRead, hne, ih h.2]

/-- Writing keeps every listed address at or above a bound that the address written to meets. -/
theorem mem_cellsWrite {a : Nat} {v : Word} {l : List (Nat × Word)} {q : Nat × Word} (h : q ∈ cellsWrite l a v) :
    q ∈ l ∨ (q = (a, v) ∧ v ≠ Config.unlistedWord) := by
  induction l with
  | nil =>
    simp only [cellsWrite] at h
    split at h <;> simp_all
  | cons p rest ih =>
    obtain ⟨b, u⟩ := p
    simp only [cellsWrite] at h
    split at h
    · split at h
      · exact .inl h
      · rcases List.mem_cons.1 h with h | h
        · exact .inr ⟨h, ‹_›⟩
        · exact .inl h
    · split at h
      · split at h
        · exact .inl (List.mem_cons_of_mem _ h)
        · rcases List.mem_cons.1 h with h | h
          · exact .inr ⟨h, ‹_›⟩
          · exact .inl (List.mem_cons_of_mem _ h)
      · rcases List.mem_cons.1 h with h | h
        · exact .inl (List.mem_cons.2 (.inl h))
        · rcases ih h with h | h
          · exact .inl (List.mem_cons_of_mem _ h)
          · exact .inr h

/-- A write keeps the canonical form. -/
theorem wf_write {m : Memory} (h : m.wf) (a : Nat) (v : Word) : (m.write a v).wf := by
  obtain ⟨l⟩ := m
  simp only [Memory.write]
  induction l with
  | nil =>
    simp only [cellsWrite]
    split <;> simp_all [Memory.wf]
  | cons p rest ih =>
    obtain ⟨b, u⟩ := p
    obtain ⟨hb, hu, hr⟩ := wf_cons.1 h
    simp only [cellsWrite]
    split
    · split
      · exact h
      · refine wf_cons.2 ⟨?_, ‹_›, h⟩
        rintro q hq
        rcases List.mem_cons.1 hq with rfl | hq
        · assumption
        · exact lt_trans ‹_› (hb q hq)
    · split
      · subst_vars
        split
        · exact hr
        · exact wf_cons.2 ⟨hb, ‹_›, hr⟩
      · refine wf_cons.2 ⟨?_, hu, ih hr⟩
        rintro q hq
        rcases mem_cellsWrite hq with hq | ⟨rfl, -⟩
        · exact hb q hq
        · show b < a
          omega

/-- A write below a bound keeps every listed address below it. -/
theorem within_write {m : Memory} {n : Nat} (h : m.within n) {a : Nat} (ha : a < n) (v : Word) :
    (m.write a v).within n := by
  rintro q hq
  rcases mem_cellsWrite hq with hq | ⟨rfl, -⟩
  · exact h q hq
  · exact ha

/-- What a canonical memory reads after a write: the word written at its address, every other word as before. -/
theorem read_write {m : Memory} (h : m.wf) (a b : Nat) (v : Word) :
    (m.write a v).read b = if b = a then v else m.read b := by
  obtain ⟨l⟩ := m
  simp only [Memory.write, Memory.read]
  induction l with
  | nil =>
    simp only [cellsWrite]
    split <;> simp_all [cellsRead, eq_comm]
  | cons p rest ih =>
    obtain ⟨c, u⟩ := p
    obtain ⟨hc, hu, hr⟩ := wf_cons.1 h
    have ih := ih hr
    simp only [cellsWrite]
    split
    · have hun : cellsRead ((c, u) :: rest) a = Config.unlistedWord :=
        cellsRead_of_lt (by
          rintro q hq
          rcases List.mem_cons.1 hq with rfl | hq
          · assumption
          · exact lt_trans ‹_› (hc q hq))
      split
      · split
        · subst_vars; exact hun
        · rfl
      · by_cases hba : b = a
        · subst hba; simp [cellsRead]
        · have : a ≠ b := fun h => hba h.symm
          simp [cellsRead, hba, this]
    · split
      · subst_vars
        have hun : cellsRead rest c = Config.unlistedWord := cellsRead_of_lt hc
        split
        · by_cases hbc : b = c
          · subst hbc; simp_all
          · have : c ≠ b := fun h => hbc h.symm
            simp [cellsRead, hbc, this]
        · by_cases hbc : b = c
          · subst hbc; simp [cellsRead]
          · have : c ≠ b := fun h => hbc h.symm
            simp [cellsRead, hbc, this]
      · by_cases hcb : c = b
        · subst hcb
          have : c ≠ a := by omega
          simp [cellsRead, this]
        · simp [cellsRead, hcb, ih]

/-- Reading back the word just written (R47). -/
theorem read_write_same {m : Memory} (h : m.wf) (a : Nat) (v : Word) : (m.write a v).read a = v := by
  simp [read_write h]

/-- A write leaves every other word alone (R47). -/
theorem read_write_other {m : Memory} (h : m.wf) {a b : Nat} (hab : b ≠ a) (v : Word) :
    (m.write a v).read b = m.read b := by
  simp [read_write h, hab]

/-- The cells of an image stand at or above where it is placed. -/
theorem le_of_mem_cellsOfImage {a : Nat} {image : List Word} {q : Nat × Word} (h : q ∈ cellsOfImage a image) :
    a ≤ q.1 ∧ q.1 < a + image.length ∧ q.2 ≠ Config.unlistedWord := by
  induction image generalizing a with
  | nil => simp [cellsOfImage] at h
  | cons w rest ih =>
    simp only [cellsOfImage] at h
    split at h
    · have := ih h
      simp only [List.length_cons]
      refine ⟨?_, ?_, this.2.2⟩ <;> omega
    · rcases List.mem_cons.1 h with rfl | h
      · refine ⟨le_refl _, ?_, ‹_›⟩
        simp only [List.length_cons]
        omega
      · have := ih h
        simp only [List.length_cons]
        refine ⟨?_, ?_, this.2.2⟩ <;> omega

/-- An image is placed in canonical form. -/
theorem wf_ofImage (image : List Word) : (Memory.ofImage image).wf := by
  suffices h : ∀ a, (⟨cellsOfImage a image⟩ : Memory).wf from h 0
  induction image with
  | nil => intro a; simp [cellsOfImage, Memory.wf]
  | cons w rest ih =>
    intro a
    simp only [cellsOfImage]
    split
    · exact ih _
    · refine wf_cons.2 ⟨fun q hq => ?_, ‹_›, ih _⟩
      have := le_of_mem_cellsOfImage hq
      omega

/-- An image that fits lists no address outside the array. -/
theorem within_ofImage {image : List Word} {n : Nat} (h : image.length ≤ n) : (Memory.ofImage image).within n := by
  rintro q hq
  have := le_of_mem_cellsOfImage hq
  omega

end Sys2Proof.Laws
end

