-- ==== Sys2Proof/Laws/State.lean ====
section
/-! SUPPORT. What each field of a state is after each one-component update, after a commit and after a flush adjustment,
so that no later proof unfolds a record update. -/

namespace Sys2Proof.Laws

open Sys2Proof.Machine

section setPc

variable (s : State) (v : Word)

@[simp] theorem setPc_memSize : (s.setPc v).memSize = s.memSize := rfl
@[simp] theorem setPc_pc : (s.setPc v).pc = v := rfl
@[simp] theorem setPc_imem : (s.setPc v).imem = s.imem := rfl
@[simp] theorem setPc_dmem : (s.setPc v).dmem = s.dmem := rfl
@[simp] theorem setPc_regs : (s.setPc v).regs = s.regs := rfl
@[simp] theorem setPc_cycles : (s.setPc v).cycles = s.cycles := rfl
@[simp] theorem setPc_ifid : (s.setPc v).ifid = s.ifid := rfl
@[simp] theorem setPc_idex : (s.setPc v).idex = s.idex := rfl
@[simp] theorem setPc_exmem : (s.setPc v).exmem = s.exmem := rfl
@[simp] theorem setPc_memwb : (s.setPc v).memwb = s.memwb := rfl
@[simp] theorem setPc_wbend : (s.setPc v).wbend = s.wbend := rfl
@[simp] theorem setPc_fault : (s.setPc v).fault = s.fault := rfl

end setPc

section setImem

variable (s : State) (v : Memory)

@[simp] theorem setImem_memSize : (s.setImem v).memSize = s.memSize := rfl
@[simp] theorem setImem_pc : (s.setImem v).pc = s.pc := rfl
@[simp] theorem setImem_imem : (s.setImem v).imem = v := rfl
@[simp] theorem setImem_dmem : (s.setImem v).dmem = s.dmem := rfl
@[simp] theorem setImem_regs : (s.setImem v).regs = s.regs := rfl
@[simp] theorem setImem_cycles : (s.setImem v).cycles = s.cycles := rfl
@[simp] theorem setImem_ifid : (s.setImem v).ifid = s.ifid := rfl
@[simp] theorem setImem_idex : (s.setImem v).idex = s.idex := rfl
@[simp] theorem setImem_exmem : (s.setImem v).exmem = s.exmem := rfl
@[simp] theorem setImem_memwb : (s.setImem v).memwb = s.memwb := rfl
@[simp] theorem setImem_wbend : (s.setImem v).wbend = s.wbend := rfl
@[simp] theorem setImem_fault : (s.setImem v).fault = s.fault := rfl

end setImem

section setDmem

variable (s : State) (v : Memory)

@[simp] theorem setDmem_memSize : (s.setDmem v).memSize = s.memSize := rfl
@[simp] theorem setDmem_pc : (s.setDmem v).pc = s.pc := rfl
@[simp] theorem setDmem_imem : (s.setDmem v).imem = s.imem := rfl
@[simp] theorem setDmem_dmem : (s.setDmem v).dmem = v := rfl
@[simp] theorem setDmem_regs : (s.setDmem v).regs = s.regs := rfl
@[simp] theorem setDmem_cycles : (s.setDmem v).cycles = s.cycles := rfl
@[simp] theorem setDmem_ifid : (s.setDmem v).ifid = s.ifid := rfl
@[simp] theorem setDmem_idex : (s.setDmem v).idex = s.idex := rfl
@[simp] theorem setDmem_exmem : (s.setDmem v).exmem = s.exmem := rfl
@[simp] theorem setDmem_memwb : (s.setDmem v).memwb = s.memwb := rfl
@[simp] theorem setDmem_wbend : (s.setDmem v).wbend = s.wbend := rfl
@[simp] theorem setDmem_fault : (s.setDmem v).fault = s.fault := rfl

end setDmem

section setRegs

variable (s : State) (v : Vector Word 8)

@[simp] theorem setRegs_memSize : (s.setRegs v).memSize = s.memSize := rfl
@[simp] theorem setRegs_pc : (s.setRegs v).pc = s.pc := rfl
@[simp] theorem setRegs_imem : (s.setRegs v).imem = s.imem := rfl
@[simp] theorem setRegs_dmem : (s.setRegs v).dmem = s.dmem := rfl
@[simp] theorem setRegs_regs : (s.setRegs v).regs = v := rfl
@[simp] theorem setRegs_cycles : (s.setRegs v).cycles = s.cycles := rfl
@[simp] theorem setRegs_ifid : (s.setRegs v).ifid = s.ifid := rfl
@[simp] theorem setRegs_idex : (s.setRegs v).idex = s.idex := rfl
@[simp] theorem setRegs_exmem : (s.setRegs v).exmem = s.exmem := rfl
@[simp] theorem setRegs_memwb : (s.setRegs v).memwb = s.memwb := rfl
@[simp] theorem setRegs_wbend : (s.setRegs v).wbend = s.wbend := rfl
@[simp] theorem setRegs_fault : (s.setRegs v).fault = s.fault := rfl

end setRegs

section setWbend

variable (s : State) (v : WBEND)

@[simp] theorem setWbend_memSize : (s.setWbend v).memSize = s.memSize := rfl
@[simp] theorem setWbend_pc : (s.setWbend v).pc = s.pc := rfl
@[simp] theorem setWbend_imem : (s.setWbend v).imem = s.imem := rfl
@[simp] theorem setWbend_dmem : (s.setWbend v).dmem = s.dmem := rfl
@[simp] theorem setWbend_regs : (s.setWbend v).regs = s.regs := rfl
@[simp] theorem setWbend_cycles : (s.setWbend v).cycles = s.cycles := rfl
@[simp] theorem setWbend_ifid : (s.setWbend v).ifid = s.ifid := rfl
@[simp] theorem setWbend_idex : (s.setWbend v).idex = s.idex := rfl
@[simp] theorem setWbend_exmem : (s.setWbend v).exmem = s.exmem := rfl
@[simp] theorem setWbend_memwb : (s.setWbend v).memwb = s.memwb := rfl
@[simp] theorem setWbend_wbend : (s.setWbend v).wbend = v := rfl
@[simp] theorem setWbend_fault : (s.setWbend v).fault = s.fault := rfl

end setWbend

section setFault

variable (s : State) (v : Option MachineFault)

@[simp] theorem setFault_memSize : (s.setFault v).memSize = s.memSize := rfl
@[simp] theorem setFault_pc : (s.setFault v).pc = s.pc := rfl
@[simp] theorem setFault_imem : (s.setFault v).imem = s.imem := rfl
@[simp] theorem setFault_dmem : (s.setFault v).dmem = s.dmem := rfl
@[simp] theorem setFault_regs : (s.setFault v).regs = s.regs := rfl
@[simp] theorem setFault_cycles : (s.setFault v).cycles = s.cycles := rfl
@[simp] theorem setFault_ifid : (s.setFault v).ifid = s.ifid := rfl
@[simp] theorem setFault_idex : (s.setFault v).idex = s.idex := rfl
@[simp] theorem setFault_exmem : (s.setFault v).exmem = s.exmem := rfl
@[simp] theorem setFault_memwb : (s.setFault v).memwb = s.memwb := rfl
@[simp] theorem setFault_wbend : (s.setFault v).wbend = s.wbend := rfl
@[simp] theorem setFault_fault : (s.setFault v).fault = v := rfl

end setFault

section advance

variable (s : State)

@[simp] theorem advance_memSize : s.advance.memSize = s.memSize := rfl
@[simp] theorem advance_pc : s.advance.pc = nextAddr s.pc := rfl
@[simp] theorem advance_imem : s.advance.imem = s.imem := rfl
@[simp] theorem advance_dmem : s.advance.dmem = s.dmem := rfl
@[simp] theorem advance_regs : s.advance.regs = s.regs := rfl
@[simp] theorem advance_cycles : s.advance.cycles = s.cycles := rfl
@[simp] theorem advance_ifid : s.advance.ifid = s.ifid := rfl
@[simp] theorem advance_idex : s.advance.idex = s.idex := rfl
@[simp] theorem advance_exmem : s.advance.exmem = s.exmem := rfl
@[simp] theorem advance_memwb : s.advance.memwb = s.memwb := rfl
@[simp] theorem advance_wbend : s.advance.wbend = s.wbend := rfl
@[simp] theorem advance_fault : s.advance.fault = s.fault := rfl

end advance

section takeFault

variable (s : State) (f : MachineFault)

@[simp] theorem takeFault_memSize : (s.takeFault f).memSize = s.memSize := rfl
@[simp] theorem takeFault_pc : (s.takeFault f).pc = s.pc := rfl
@[simp] theorem takeFault_imem : (s.takeFault f).imem = s.imem := rfl
@[simp] theorem takeFault_dmem : (s.takeFault f).dmem = s.dmem := rfl
@[simp] theorem takeFault_regs : (s.takeFault f).regs = s.regs := rfl
@[simp] theorem takeFault_cycles : (s.takeFault f).cycles = s.cycles := rfl
@[simp] theorem takeFault_ifid : (s.takeFault f).ifid = s.ifid := rfl
@[simp] theorem takeFault_idex : (s.takeFault f).idex = s.idex := rfl
@[simp] theorem takeFault_exmem : (s.takeFault f).exmem = s.exmem := rfl
@[simp] theorem takeFault_memwb : (s.takeFault f).memwb = s.memwb := rfl
@[simp] theorem takeFault_wbend : (s.takeFault f).wbend = s.wbend := rfl
@[simp] theorem takeFault_fault : (s.takeFault f).fault = some f := rfl

end takeFault

section commit

variable (s : State) (pc : Word) (ifid : IFID) (idex : IDEX) (exmem : EXMEM) (memwb : MEMWB) (wbend : WBEND)
  (regs : Vector Word 8) (dmem : Memory)

@[simp] theorem commit_memSize : (commit s pc ifid idex exmem memwb wbend regs dmem).memSize = s.memSize := rfl
@[simp] theorem commit_pc : (commit s pc ifid idex exmem memwb wbend regs dmem).pc = pc := rfl
@[simp] theorem commit_imem : (commit s pc ifid idex exmem memwb wbend regs dmem).imem = s.imem := rfl
@[simp] theorem commit_dmem : (commit s pc ifid idex exmem memwb wbend regs dmem).dmem = dmem := rfl
@[simp] theorem commit_regs : (commit s pc ifid idex exmem memwb wbend regs dmem).regs = regs := rfl
@[simp] theorem commit_cycles : (commit s pc ifid idex exmem memwb wbend regs dmem).cycles = s.cycles + 1 := rfl
@[simp] theorem commit_ifid : (commit s pc ifid idex exmem memwb wbend regs dmem).ifid = ifid := rfl
@[simp] theorem commit_idex : (commit s pc ifid idex exmem memwb wbend regs dmem).idex = idex := rfl
@[simp] theorem commit_exmem : (commit s pc ifid idex exmem memwb wbend regs dmem).exmem = exmem := rfl
@[simp] theorem commit_memwb : (commit s pc ifid idex exmem memwb wbend regs dmem).memwb = memwb := rfl
@[simp] theorem commit_wbend : (commit s pc ifid idex exmem memwb wbend regs dmem).wbend = wbend := rfl
@[simp] theorem commit_fault : (commit s pc ifid idex exmem memwb wbend regs dmem).fault = none := rfl

end commit

section flush

variable (s : State)

@[simp] theorem flushAdjust_memSize : (flushAdjust s).memSize = s.memSize := by
  unfold flushAdjust; split <;> rfl

theorem flushAdjust_pc : (flushAdjust s).pc = if takenBranch s then s.exmem.branchTarget else s.pc := by
  unfold flushAdjust; split <;> rfl

@[simp] theorem flushAdjust_imem : (flushAdjust s).imem = s.imem := by
  unfold flushAdjust; split <;> rfl

@[simp] theorem flushAdjust_dmem : (flushAdjust s).dmem = s.dmem := by
  unfold flushAdjust; split <;> rfl

@[simp] theorem flushAdjust_regs : (flushAdjust s).regs = s.regs := by
  unfold flushAdjust; split <;> rfl

@[simp] theorem flushAdjust_cycles : (flushAdjust s).cycles = s.cycles := by
  unfold flushAdjust; split <;> rfl

theorem flushAdjust_ifid : (flushAdjust s).ifid = if takenBranch s then bubbleIFID else s.ifid := by
  unfold flushAdjust; split <;> rfl

theorem flushAdjust_idex : (flushAdjust s).idex = if takenBranch s then bubbleIDEX else s.idex := by
  unfold flushAdjust; split <;> rfl

theorem flushAdjust_exmem : (flushAdjust s).exmem = if takenBranch s then bubbleEXMEM else s.exmem := by
  unfold flushAdjust; split <;> rfl

@[simp] theorem flushAdjust_memwb : (flushAdjust s).memwb = s.memwb := by
  unfold flushAdjust; split <;> rfl

@[simp] theorem flushAdjust_wbend : (flushAdjust s).wbend = s.wbend := by
  unfold flushAdjust; split <;> rfl

@[simp] theorem flushAdjust_fault : (flushAdjust s).fault = s.fault := by
  unfold flushAdjust; split <;> rfl

/-- Without a taken BEQ in EX/MEM the stages run on the state itself (R111 part 1). -/
theorem flushAdjust_of_not_taken (h : takenBranch s = false) : flushAdjust s = s := by
  simp [flushAdjust, h]

end flush

end Sys2Proof.Laws
end

