-- ==== Sys2Proof/Laws/Ops.lean ====
section
/-! SUPPORT. For each shared operation, once, everything it can answer: the lemmas to cite instead of unfolding it. -/

namespace Sys2Proof.Laws

open Sys2Proof.Machine

/-- The bounds test is the comparison of R45. -/
theorem inBounds_iff (n : Nat) (a : Word) : inBounds n a = true ↔ a.toNat < n := by simp [inBounds]

/-- All that a fetch can answer (R45). -/
theorem iFetch_cases (n : Nat) (m : Memory) (a : Word) :
    (a.toNat < n ∧ iFetch n m a = .ok (m.read a.toNat)) ∨
    (n ≤ a.toNat ∧ iFetch n m a = .error (.fetchOutOfBounds a)) := by
  by_cases h : a.toNat < n
  · simp [iFetch, inBounds, h]
  · simp [iFetch, inBounds, h, Nat.le_of_not_lt h]

/-- All that a data read can answer (R45). -/
theorem memRead_cases (n : Nat) (m : Memory) (a : Word) :
    (a.toNat < n ∧ memRead n m a = .ok (m.read a.toNat)) ∨
    (n ≤ a.toNat ∧ memRead n m a = .error (.dataAddressOutOfBounds a)) := by
  by_cases h : a.toNat < n
  · simp [memRead, inBounds, h]
  · simp [memRead, inBounds, h, Nat.le_of_not_lt h]

/-- All that a data write can answer (R45). -/
theorem memWrite_cases (n : Nat) (m : Memory) (a v : Word) :
    (a.toNat < n ∧ memWrite n m a v = .ok (m.write a.toNat v)) ∨
    (n ≤ a.toNat ∧ memWrite n m a v = .error (.dataAddressOutOfBounds a)) := by
  by_cases h : a.toNat < n
  · simp [memWrite, inBounds, h]
  · simp [memWrite, inBounds, h, Nat.le_of_not_lt h]

/-- All that a register write can answer (R135). -/
theorem writeReg_cases (regs : Vector Word 8) (d : Nat) (v : Word) :
    (∃ h : d < 8, writeReg regs d v = .ok (regs.set d v h)) ∨
    (8 ≤ d ∧ writeReg regs d v = .error (.regIndexOutOfBounds d)) := by
  by_cases h : d < 8
  · exact .inl ⟨h, by simp [writeReg, h]⟩
  · exact .inr ⟨Nat.le_of_not_lt h, by simp [writeReg, h]⟩

/-- A register field always names a register, so a write through one never faults (R135). -/
theorem writeReg_field (regs : Vector Word 8) (r : RegIdx) (v : Word) :
    writeReg regs r.toNat v = .ok (regs.set r.toNat v r.isLt) := by
  have h : r.toNat < 8 := r.isLt
  simp [writeReg, h]

/-- A register read after a register write: the value written where the numbers agree, else the old one (R11, R12). -/
theorem readReg_set (regs : Vector Word 8) (d : Nat) (h : d < 8) (v : Word) (r : RegIdx) :
    readReg (regs.set d v h) r = if r.toNat = d then v else readReg regs r := by
  simp only [readReg, Vector.getElem_set, eq_comm]

/-- The two ways a settled transition ends: its state, or the fault taken on the state before it (R117, R184). -/
theorem settle_cases (s : State) (e : Except MachineFault State) :
    (∃ t, e = .ok t ∧ settle s e = .next t) ∨ (∃ f, e = .error f ∧ settle s e = .next (s.takeFault f)) := by
  cases e with
  | ok t => exact .inl ⟨t, rfl, rfl⟩
  | error f => exact .inr ⟨f, rfl, rfl⟩

@[simp] theorem settle_ok (s t : State) : settle s (.ok t) = .next t := rfl

@[simp] theorem settle_error (s : State) (f : MachineFault) : settle s (.error f) = .next (s.takeFault f) := rfl

/-- A state is in the *running* status exactly where nothing has faulted and WB/END holds no HALT (R20). -/
theorem status_running_iff (s : State) : s.status = .running ↔ s.fault = none ∧ s.halted = false := by
  unfold State.status
  cases s.fault with
  | none => cases s.halted <;> simp
  | some f => simp

theorem status_halted_iff (s : State) : s.status = .halted ↔ s.fault = none ∧ s.halted = true := by
  unfold State.status
  cases s.fault with
  | none => cases s.halted <;> simp
  | some f => simp

theorem running_iff (s : State) : s.running = true ↔ s.fault = none ∧ s.halted = false := by
  simp [State.running]

/-- The halted output is the *halted* status (R115). -/
theorem haltedOutput_iff (s : State) : s.haltedOutput = true ↔ s.status = .halted := by
  simp [State.haltedOutput, status_halted_iff]

/-- A transition guarded by the status runs exactly in the *running* status (R116). -/
theorem whileRunning_of_running {s : State} (h : s.status = .running) (k : State → Outcome) :
    whileRunning s k = k s := by
  obtain ⟨hf, hh⟩ := (status_running_iff s).1 h
  simp [whileRunning, hf, hh]

theorem whileRunning_next {s t : State} {k : State → Outcome} (h : whileRunning s k = .next t) :
    s.status = .running ∧ k s = .next t := by
  unfold whileRunning at h
  split at h
  · cases h
  · rename_i hf
    split at h
    · cases h
    · rename_i hh
      exact ⟨(status_running_iff s).2 ⟨hf, by simpa using hh⟩, h⟩

end Sys2Proof.Laws
end

