-- ==== Sys2Proof/Laws/PerInstr.lean ====
section
/-! SUPPORT. Statements made per instruction, about the instruction as syntax. -/

namespace Sys2Proof.Laws

/-- The `match` value of R67 for an instruction's opcode, `opcode << 22`. -/
def matchValue : Instr → Word
  | .add _ _ _ => 0x00000000#32
  | .nor _ _ _ => 0x00400000#32
  | .lw _ _ _ => 0x00800000#32
  | .sw _ _ _ => 0x00C00000#32
  | .beq _ _ _ => 0x01000000#32
  | .jalr => 0x01400000#32
  | .halt => 0x01800000#32
  | .noop => 0x01C00000#32

/-- Under the mask `0x01C00000` an encoded instruction has its opcode's `match` value, and bits 31 to 25 are 0 (R67, R83). -/
abbrev EncodeMatches.Statement (i : Instr) : Prop :=
  encode i &&& 0x01C00000#32 = matchValue i ∧ encode i &&& 0xFE000000#32 = 0#32

/-- Fields below the opcode do not reach the opcode's bits or those above. -/
theorem encodeFields_masks (o : BitVec 3) (a b : RegIdx) (f : Field16) :
    encodeFields o a b f &&& 0x01C00000#32 = o.setWidth 32 <<< 22 ∧ encodeFields o a b f &&& 0xFE000000#32 = 0#32 := by
  constructor <;> (ext k hk; simp only [encodeFields]; interval_cases k <;> simp)

theorem EncodeMatches.add (a b : RegIdx) (d : Field16) : EncodeMatches.Statement (.add a b d) :=
  ⟨(encodeFields_masks 0#3 a b d).1.trans rfl, (encodeFields_masks 0#3 a b d).2⟩

theorem EncodeMatches.nor (a b : RegIdx) (d : Field16) : EncodeMatches.Statement (.nor a b d) :=
  ⟨(encodeFields_masks 1#3 a b d).1.trans rfl, (encodeFields_masks 1#3 a b d).2⟩

theorem EncodeMatches.lw (a b : RegIdx) (off : Field16) : EncodeMatches.Statement (.lw a b off) :=
  ⟨(encodeFields_masks 2#3 a b off).1.trans rfl, (encodeFields_masks 2#3 a b off).2⟩

theorem EncodeMatches.sw (a b : RegIdx) (off : Field16) : EncodeMatches.Statement (.sw a b off) :=
  ⟨(encodeFields_masks 3#3 a b off).1.trans rfl, (encodeFields_masks 3#3 a b off).2⟩

theorem EncodeMatches.beq (a b : RegIdx) (off : Field16) : EncodeMatches.Statement (.beq a b off) :=
  ⟨(encodeFields_masks 4#3 a b off).1.trans rfl, (encodeFields_masks 4#3 a b off).2⟩

theorem EncodeMatches.jalr : EncodeMatches.Statement .jalr := by decide

theorem EncodeMatches.halt : EncodeMatches.Statement .halt := by decide

theorem EncodeMatches.noop : EncodeMatches.Statement .noop := by decide

end Sys2Proof.Laws
end

