-- ==== Sys2Proof/Laws/Step.lean ====
section
/-! SUPPORT. What a stage, a cycle and a step can do, each said once. -/

namespace Sys2Proof.Laws

open Sys2Proof.Machine

/-- All that the IF stage can answer (R125, R126). -/
theorem ifStage_cases (t : State) (stall : Bool) :
    (stall = true ∧ ifStage t stall = .ok (t.pc, t.ifid)) ∨
    (stall = false ∧ t.pc.toNat < t.memSize ∧
      ifStage t stall = .ok (nextAddr t.pc, { instr := t.imem.read t.pc.toNat, pcPlus1 := nextAddr t.pc })) ∨
    (stall = false ∧ t.memSize ≤ t.pc.toNat ∧ ifStage t stall = .error (.fetchOutOfBounds t.pc)) := by
  cases stall with
  | true => exact .inl ⟨rfl, rfl⟩
  | false =>
    rcases iFetch_cases t.memSize t.imem t.pc with ⟨h, e⟩ | ⟨h, e⟩
    · exact .inr (.inl ⟨rfl, h, by simp [ifStage, e, Except.map]⟩)
    · exact .inr (.inr ⟨rfl, h, by simp [ifStage, e, Except.map]⟩)

/-- All that the MEM stage can answer (R133, R134). -/
theorem memStage_cases (t : State) :
    ((decode t.exmem.instr).memRead = true ∧ t.exmem.aluResult.toNat < t.memSize ∧
      memStage t = .ok ({ instr := t.exmem.instr, writeData := t.dmem.read t.exmem.aluResult.toNat }, t.dmem)) ∨
    ((decode t.exmem.instr).memWrite = true ∧ t.exmem.aluResult.toNat < t.memSize ∧
      memStage t = .ok ({ instr := t.exmem.instr, writeData := t.exmem.aluResult },
        t.dmem.write t.exmem.aluResult.toNat t.exmem.readRegB)) ∨
    ((decode t.exmem.instr).memRead = false ∧ (decode t.exmem.instr).memWrite = false ∧
      memStage t = .ok ({ instr := t.exmem.instr, writeData := t.exmem.aluResult }, t.dmem)) ∨
    (((decode t.exmem.instr).memRead = true ∨ (decode t.exmem.instr).memWrite = true) ∧
      t.memSize ≤ t.exmem.aluResult.toNat ∧ memStage t = .error (.dataAddressOutOfBounds t.exmem.aluResult)) := by
  cases hr : (decode t.exmem.instr).memRead with
  | true =>
    rcases memRead_cases t.memSize t.dmem t.exmem.aluResult with ⟨h, e⟩ | ⟨h, e⟩
    · exact .inl ⟨rfl, h, by simp [memStage, hr, e, Except.map]⟩
    · exact .inr (.inr (.inr ⟨.inl rfl, h, by simp [memStage, hr, e, Except.map]⟩))
  | false =>
    cases hw : (decode t.exmem.instr).memWrite with
    | true =>
      rcases memWrite_cases t.memSize t.dmem t.exmem.aluResult t.exmem.readRegB with ⟨h, e⟩ | ⟨h, e⟩
      · exact .inr (.inl ⟨rfl, h, by simp [memStage, hr, hw, e, Except.map]⟩)
      · exact .inr (.inr (.inr ⟨.inr rfl, h, by simp [memStage, hr, hw, e, Except.map]⟩))
    | false => exact .inr (.inr (.inl ⟨rfl, rfl, by simp [memStage, hr, hw]⟩))

/-- All that the WB stage can answer (R135, R136). -/
theorem wbStage_cases (t : State) :
    ((decode t.memwb.instr).dest = none ∧
      wbStage t = .ok ({ instr := t.memwb.instr, writeData := t.memwb.writeData }, t.regs)) ∨
    (∃ d, (decode t.memwb.instr).dest = some d ∧
      ((∃ h : d < 8, wbStage t =
          .ok ({ instr := t.memwb.instr, writeData := t.memwb.writeData }, t.regs.set d t.memwb.writeData h)) ∨
        (8 ≤ d ∧ wbStage t = .error (.regIndexOutOfBounds d)))) := by
  cases hd : (decode t.memwb.instr).dest with
  | none => exact .inl ⟨rfl, by simp [wbStage, hd]⟩
  | some d =>
    refine .inr ⟨d, rfl, ?_⟩
    rcases writeReg_cases t.regs d t.memwb.writeData with ⟨h, e⟩ | ⟨h, e⟩
    · exact .inl ⟨h, by simp [wbStage, hd, e, Except.map]⟩
    · exact .inr ⟨h, by simp [wbStage, hd, e, Except.map]⟩

/-- What the five stages give when none raises a fault: the commit of their outputs (R111, R113). -/
theorem runStages_ok {s t u : State} (h : runStages s t = .ok u) :
    ∃ wbend regs memwb dmem pc ifid,
      wbStage t = .ok (wbend, regs) ∧ memStage t = .ok (memwb, dmem) ∧ ifStage t (stalls t) = .ok (pc, ifid) ∧
      u = commit s pc ifid (idStage t (stalls t)) (exStage t) memwb wbend regs dmem := by
  unfold runStages at h
  split at h
  · cases h
  · split at h
    · cases h
    · split at h
      · cases h
      · refine ⟨_, _, _, _, _, _, ‹_›, ‹_›, ‹_›, ?_⟩
        simpa using h.symm

/-- All that a step with a next state can have done: it ran a cycle of a running machine that took a fault and changed
nothing else, or that committed its stages' outputs (R111, R113, R117). -/
theorem step_next {s t : State} (h : step s = .next t) :
    s.status = .running ∧
      ((∃ f, runStages s (flushAdjust s) = .error f ∧ t = s.takeFault f) ∨ runStages s (flushAdjust s) = .ok t) := by
  obtain ⟨hr, hc⟩ := whileRunning_next h
  refine ⟨hr, ?_⟩
  rcases settle_cases s (runStages s (flushAdjust s)) with ⟨u, e, hu⟩ | ⟨f, e, hu⟩
  · refine .inr ?_
    rw [cycle, hu] at hc
    cases hc
    exact e
  · refine .inl ⟨f, e, ?_⟩
    rw [cycle, hu] at hc
    cases hc
    rfl

/-- A cycle that raised no fault committed its stages' outputs. -/
theorem step_commits {s t : State} (h : step s = .next t) (hf : t.fault = none) :
    ∃ wbend regs memwb dmem pc ifid,
      wbStage (flushAdjust s) = .ok (wbend, regs) ∧ memStage (flushAdjust s) = .ok (memwb, dmem) ∧
      ifStage (flushAdjust s) (stalls (flushAdjust s)) = .ok (pc, ifid) ∧
      t = commit s pc ifid (idStage (flushAdjust s) (stalls (flushAdjust s))) (exStage (flushAdjust s))
        memwb wbend regs dmem := by
  rcases (step_next h).2 with ⟨f, -, rfl⟩ | e
  · simp at hf
  · exact runStages_ok e

end Sys2Proof.Laws
end

