-- ==== Sys2Proof/Tests/Slice0.lean ====
section
/-! SUPPORT. The model's own tests, each expected value from the spec (the rule or the section of 95_test_vectors.md is in
the comment), and for every statement of Obligations.lean with hypotheses a theorem that meets them all together. -/

namespace Sys2Proof.Tests

open Sys2Proof.Machine Sys2Proof.Safety Sys2Proof.Laws

/-! ### Helpers: a small machine, and what a step or an instruction leads to -/

/-- A machine of 16 words whose register `r` holds `10 * r`, with an empty pipeline. -/
def small : State :=
  { State.reset with
    memSize := 16
    regs := #v[0#32, 10#32, 20#32, 30#32, 40#32, 50#32, 60#32, 70#32] }

/-- `small` with the register `r` holding `v`. -/
def smallWith (r : RegIdx) (v : Word) : State := small.setRegs (small.regs.set r.toNat v r.isLt)

/-- `small` with words in the latches IF/ID to MEM/WB, EX/MEM and MEM/WB carrying a value; each word's address is that
of the one behind it less 1, up to `pc` 8. -/
def pipe (f x m : Word) (alu : Word) (w : Word) (wd : Word) : State :=
  { small with
    pc := 8#32
    ifid := { instr := f, pcPlus1 := 8#32 }
    idex :=
      { instr := x
        pcPlus1 := 7#32
        readRegA := small.reg (regA x)
        readRegB := small.reg (regB x)
        offset := sext16 (imm16 x) }
    exmem := { instr := m, branchTarget := 3#32, eq := (decode m).isBranch, aluResult := alu, readRegB := 99#32 }
    memwb := { instr := w, writeData := wd } }

/-- The state one cycle later. -/
def after (s : State) : State := outcomeState s (step s)

/-- The state after one instruction of the program-order execution. -/
def afterExec (i : Instr) (s : State) : State := outcomeState s (exec i s)

/-- The cycle runs, and raises no fault. -/
def commits (s : State) : Bool := s.running && (after s).fault.isNone

/-- A running machine's step goes to the state after it. -/
theorem step_after {s : State} (h : s.running = true) : step s = .next (after s) := by
  have hs : s.status = .running := by
    simp [State.running] at h
    simp [State.status, h]
  have e : step s = cycle s := by rw [step, whileRunning_of_running hs]
  rcases settle_cases s (runStages s (flushAdjust s)) with ⟨t, -, ht⟩ | ⟨f, -, ht⟩ <;>
    simp [after, e, cycle, ht, outcomeState]

/-- A cycle that the check says commits does. -/
theorem commits_after {s : State} (h : commits s = true) : Commits s (after s) := by
  simp [commits] at h
  exact ⟨step_after h.1, h.2⟩

/-! ### WellFormed: each check refuses an ill-formed term (R5, R74, R81, R213) -/

theorem test_add_to_register_8_is_ill_formed :
    Instr.wellFormed (.add 0#3 0#3 8#16) = false ∧ Instr.wellFormed (.add 0#3 0#3 7#16) = true := by decide

theorem test_nor_to_register_32771_is_ill_formed :
    Instr.wellFormed (.nor 0#3 0#3 32771#16) = false ∧ Instr.wellFormed (.nor 0#3 0#3 7#16) = true := by decide

theorem test_size_zero_and_above_the_maximum_are_refused :
    memSizeAllowed 0 = false ∧ memSizeAllowed 2147483649 = false ∧ memSizeAllowed 1 = true ∧
    memSizeAllowed 2147483648 = true := by decide

theorem test_image_longer_than_memory_is_refused :
    imageFits 1 [0#32, 0#32] = false ∧ imageFits 2 [0#32, 0#32] = true ∧ State.load 1 [0#32, 0#32] = none := by decide

/-! ### Decoding: words written out bit by bit as opcode, regA, regB, trailing field (R61, R67) -/

theorem test_decode_add : decode 0b0000000_000_001_010_0000000000000011#32 = .add 1#3 2#3 3#16 := by decide

theorem test_decode_nor : decode 0b0000000_001_001_010_0000000000000011#32 = .nor 1#3 2#3 3#16 := by decide

theorem test_decode_lw : decode 0b0000000_010_000_001_0000000000000110#32 = .lw 0#3 1#3 6#16 := by decide

theorem test_decode_sw : decode 0b0000000_011_000_001_0000000000000110#32 = .sw 0#3 1#3 6#16 := by decide

theorem test_decode_beq : decode 0b0000000_100_000_011_1111111111111100#32 = .beq 0#3 3#3 65532#16 := by decide

theorem test_decode_jalr : decode 0b0000000_101_001_010_0000000000000000#32 = .jalr := by decide

theorem test_decode_halt : decode 0b0000000_110_000_000_0000000000000001#32 = .halt := by decide

theorem test_decode_noop : decode 0b0000000_111_010_000_0000000000000101#32 = .noop := by decide

/-- 95_test_vectors.md 2.1: bits 31 to 25 are ignored (R70). -/
theorem test_decode_ignores_upper_bits :
    decode 0x80000000#32 = .add 0#3 0#3 0#16 ∧ decode 0xFE810006#32 = .lw 0#3 1#3 6#16 := by decide

/-- R80, R83, 95_test_vectors.md 2.1: the canonical words. -/
theorem test_encode :
    encode (.add 1#3 2#3 3#16) = 655363#32 ∧ encode (.nor 1#3 2#3 3#16) = 4849667#32 ∧
    encode (.lw 0#3 1#3 6#16) = 8454150#32 ∧ encode (.sw 0#3 1#3 6#16) = 12648454#32 ∧
    encode (.beq 0#3 0#3 65532#16) = 16842748#32 ∧ encode .jalr = 20971520#32 ∧
    encode .halt = 25165824#32 ∧ encode .noop = 29360128#32 := by decide

/-- The opcode table's rows as words of 32 bits; a row of more bits is no instruction of this machine (R60). -/
theorem test_decode_table_word :
    decodeTableWord 32 25165824 = some .halt ∧ decodeTableWord 32 8454150 = some (.lw 0#3 1#3 6#16) ∧
    decodeTableWord 64 0 = none := by decide

/-- R81: a record -1 is the word of all ones. -/
theorem test_word_of_record : wordOfRecord (-1) = 0xFFFFFFFF#32 ∧ wordOfRecord 4294967295 = 0xFFFFFFFF#32 := by decide

/-- 95_test_vectors.md 2.2. -/
theorem test_sign_extension : sext16 0x7FFF#16 = 0x00007FFF#32 ∧ sext16 0x8000#16 = 0xFFFF8000#32 := by decide

/-! ### The instructions: the examples of R90 to R106 and of 95_test_vectors.md 2.3 to 2.5 -/

/-- R90: 5 + 7 into register 3. -/
theorem test_add :
    (afterExec (.add 1#3 2#3 3#16) ((smallWith 1#3 5#32).setRegs #v[0#32, 5#32, 7#32, 0#32, 0#32, 0#32, 0#32, 0#32])).reg 3#3
      = 12#32 := by decide

/-- R90, R92: `0x80000000` doubled wraps to 0, and the destination may be the source. -/
theorem test_add_wraps : (afterExec (.add 1#3 1#3 1#16) (smallWith 1#3 0x80000000#32)).reg 1#3 = 0#32 := by decide

/-- R91: the NOR of 10 and 10. -/
theorem test_nor : (afterExec (.nor 1#3 1#3 3#16) small).reg 3#3 = 0xFFFFFFF5#32 := by decide

/-- R91, R11: register 0 is an ordinary destination. -/
theorem test_nor_register_0 : (afterExec (.nor 0#3 0#3 0#16) small).reg 0#3 = 0xFFFFFFFF#32 := by decide

/-- R95: `lw 0 1 6` with `dmem[6] = 5`. -/
theorem test_lw : (afterExec (.lw 0#3 1#3 6#16) (small.setDmem ⟨[(6, 5#32)]⟩)).reg 1#3 = 5#32 := by decide

/-- R95: `lw 1 1 0` with `x[1] = 6`, the base being the value before the write. -/
theorem test_lw_base_is_destination :
    (afterExec (.lw 1#3 1#3 0#16) ((smallWith 1#3 6#32).setDmem ⟨[(6, 5#32)]⟩)).reg 1#3 = 5#32 := by decide

/-- R96: `sw 0 1 6` with `x[1] = 10`, and only that word. -/
theorem test_sw : (afterExec (.sw 0#3 1#3 6#16) small).dmem = ⟨[(6, 10#32)]⟩ := by decide

/-- 95_test_vectors.md 2.4: base 4294967295 and displacement 1 give address 0. -/
theorem test_sw_address_wraps : (afterExec (.sw 7#3 1#3 1#16) (smallWith 7#3 4294967295#32)).dmem.read 0 = 10#32 := by
  decide

/-- 95_test_vectors.md 2.5: a taken BEQ at 5 with displacement -4 goes to 2. -/
theorem test_beq_taken : (afterExec (.beq 0#3 0#3 65532#16) (small.setPc 5#32)).pc = 2#32 := by decide

/-- 95_test_vectors.md 2.5: a BEQ at 2 that is not taken goes to 3. -/
theorem test_beq_not_taken : (afterExec (.beq 0#3 1#3 3#16) (small.setPc 2#32)).pc = 3#32 := by decide

/-- R101: JALR at 1 goes to 2 and writes no register. -/
theorem test_jalr :
    (afterExec .jalr (small.setPc 1#32)).pc = 2#32 ∧ (afterExec .jalr (small.setPc 1#32)).regs = small.regs := by decide

/-- R105, R115: HALT halts. -/
theorem test_halt : (afterExec .halt small).halted = true ∧ small.halted = false := by decide

/-- R106: NOOP at 3 goes to 4. -/
theorem test_noop : (afterExec .noop (small.setPc 3#32)).pc = 4#32 := by decide

/-! ### Single cycles of the spec's traces -/

/-- 95_test_vectors.md X1, cycle 2: `add 1 3 3` behind `lw 2 1 0` stalls, `pc` stays, and ID/EX takes a bubble. -/
theorem test_load_use_stall :
    (after (pipe 720899#32 9502720#32 noopW 0#32 noopW 0#32)).pc = 8#32 ∧
    (after (pipe 720899#32 9502720#32 noopW 0#32 noopW 0#32)).idex = bubbleIDEX := by decide

/-- R137: the ID stage reads the register that WB writes in the same cycle as it was before. -/
theorem test_no_register_bypass :
    (after (pipe 655363#32 noopW noopW 0#32 655361#32 77#32)).idex =
      { instr := 655363#32, pcPlus1 := 8#32, readRegA := 10#32, readRegB := 20#32, offset := 3#32 } ∧
    (after (pipe 655363#32 noopW noopW 0#32 655361#32 77#32)).reg 1#3 = 77#32 := by decide

/-- 95_test_vectors.md 2.7, lines 1, 4, 5 and 8: the priority of the forwarding sources. -/
theorem test_forwarding :
    fwd 3#3 100#32 { bubbleEXMEM with instr := 0x000A0003#32, aluResult := 11#32 } ⟨0x000A0003#32, 22#32⟩
      ⟨0x000A0003#32, 33#32⟩ = 11#32 ∧
    fwd 3#3 100#32 { bubbleEXMEM with instr := 0x000A0004#32, aluResult := 11#32 } ⟨0x00850003#32, 22#32⟩
      ⟨haltW, 33#32⟩ = 100#32 ∧
    fwd 3#3 100#32 { bubbleEXMEM with instr := 0x000A0004#32, aluResult := 11#32 } ⟨0x00830009#32, 22#32⟩
      ⟨0x000A0003#32, 33#32⟩ = 22#32 ∧
    fwd 3#3 100#32 { bubbleEXMEM with instr := 0x000A000B#32, aluResult := 11#32 } ⟨0x000A8003#32, 22#32⟩
      ⟨noopW, 0#32⟩ = 100#32 := by decide

/-- 95_test_vectors.md X4, cycle 4: the flush fetches the target and discards the two words behind the BEQ. -/
theorem test_flush :
    (after (pipe 589826#32 12648455#32 16777218#32 4#32 8454150#32 9#32)).pc = 4#32 ∧
    (after (pipe 589826#32 12648455#32 16777218#32 4#32 8454150#32 9#32)).exmem = bubbleEXMEM ∧
    (after (pipe 589826#32 12648455#32 16777218#32 4#32 8454150#32 9#32)).reg 1#3 = 9#32 := by decide

/-- 95_test_vectors.md M, cycle 4: the older instruction's fault is recorded, and nothing else moves. -/
theorem test_oldest_fault_wins :
    after (pipe noopW noopW 8519679#32 4294967295#32 8#32 0#32) =
      (pipe noopW noopW 8519679#32 4294967295#32 8#32 0#32).takeFault (.regIndexOutOfBounds 8) := by decide

/-- The word that `withFetchWord` places is what the first cycle after reset fetches (R201, log 2). -/
theorem test_with_fetch_word :
    (after (State.reset.withFetchWord 32 8454150)).ifid = { instr := 8454150#32, pcPlus1 := 1#32 } := by decide

/-! ### The hypotheses of the statements can be met -/

/-- One word for each row of R67. -/
theorem witness_DecodingFollowsTheOpcodeMap :
    0x000A0003#32 &&& 0x01C00000#32 = 0x00000000#32 ∧ 0x004A0003#32 &&& 0x01C00000#32 = 0x00400000#32 ∧
    0x00810006#32 &&& 0x01C00000#32 = 0x00800000#32 ∧ 0xFEC10006#32 &&& 0x01C00000#32 = 0x00C00000#32 ∧
    0x0100FFFC#32 &&& 0x01C00000#32 = 0x01000000#32 ∧ 0x014A0000#32 &&& 0x01C00000#32 = 0x01400000#32 ∧
    0x01800001#32 &&& 0x01C00000#32 = 0x01800000#32 ∧ 0xFFFFFFFF#32 &&& 0x01C00000#32 = 0x01C00000#32 := by decide

theorem witness_DecodingIgnoresBits31To25 :
    (0xFE810006#32 : Word).extractLsb' 0 25 = (0x00810006#32 : Word).extractLsb' 0 25 := by decide

theorem witness_AddWritesTheSum : (0#16 : Field16).toNat < 8 ∧ (7#16 : Field16).toNat < 8 := by decide

theorem witness_NorWritesTheNor : (0#16 : Field16).toNat < 8 ∧ (7#16 : Field16).toNat < 8 := by decide

theorem witness_AddAndNorFaultOnAMissingRegister :
    8 ≤ (8#16 : Field16).toNat ∧ 8 ≤ (65535#16 : Field16).toNat := by decide

/-- The lowest and the highest address of the 16. -/
theorem witness_LwLoadsTheWord :
    (effectiveAddress (small.reg 0#3) 0#16).toNat < small.memSize ∧
    (effectiveAddress (small.reg 1#3) 5#16).toNat < small.memSize := by decide

/-- The lowest and the highest address of the 16. -/
theorem witness_SwStoresTheWord :
    small.dmem.wf ∧ (effectiveAddress (small.reg 0#3) 0#16).toNat < small.memSize ∧
    (effectiveAddress (small.reg 1#3) 5#16).toNat < small.memSize := by decide

/-- The first address above the 16, and the last of all. -/
theorem witness_LwAndSwFaultOutOfBounds :
    small.memSize ≤ (effectiveAddress (small.reg 1#3) 6#16).toNat ∧
    small.memSize ≤ (effectiveAddress (small.reg 0#3) 65535#16).toNat := by decide

theorem witness_StoreThenLoadReturnsTheStoredWord :
    small.dmem.wf ∧ (effectiveAddress (small.reg 1#3) 5#16).toNat < small.memSize := by decide

/-- The hypothesis of the statements about reset: an image that fills the memory. -/
theorem witness_ResetLoadsEveryComponent : ∃ s, State.load 2 [655363#32, haltW] = some s := ⟨_, rfl⟩

theorem witness_FirstCycleFetchesWordZero : ∃ s, State.load 1 [haltW] = some s := ⟨_, rfl⟩

theorem witness_StorageInvariantAtReset : ∃ s, State.load 16 [] = some s := ⟨_, rfl⟩

theorem witness_HazardInvariantAtReset : ∃ s, State.load 16 [] = some s := ⟨_, rfl⟩

theorem witness_OnlyStoppedMachinesHaveNoNextState :
    small.status = .running ∧ (afterExec .halt small).status = .halted ∧
    (small.takeFault (.regIndexOutOfBounds 8)).fault = some (.regIndexOutOfBounds 8) := by decide

/-- ADD in EX, LW in MEM and an ADD in WB, no stall. -/
def addBehindLoad : State := pipe noopW 655363#32 8454150#32 15#32 655367#32 30#32

theorem witness_StepRunsTheDecodedInstructions :
    Commits addBehindLoad (after addBehindLoad) ∧ takenBranch addBehindLoad = false ∧
    loadUseStall addBehindLoad.ifid addBehindLoad.idex = false ∧
    decode addBehindLoad.idex.instr = .add 1#3 2#3 3#16 ∧ decode addBehindLoad.exmem.instr = .lw 0#3 1#3 6#16 ∧
    (decode addBehindLoad.exmem.instr).memWrite = false ∧ (decode addBehindLoad.memwb.instr).dest = some 7 :=
  ⟨commits_after (by decide), by decide⟩

/-- NOR in EX, SW in MEM and a HALT in WB. -/
def norBehindStore : State := pipe noopW 4849667#32 12648454#32 0#32 haltW 0#32

theorem witness_StepRunsTheDecodedInstructions_nor_sw_halt :
    Commits norBehindStore (after norBehindStore) ∧ takenBranch norBehindStore = false ∧
    decode norBehindStore.idex.instr = .nor 1#3 2#3 3#16 ∧ decode norBehindStore.exmem.instr = .sw 0#3 1#3 6#16 ∧
    (decode norBehindStore.exmem.instr).memRead = false ∧ (decode norBehindStore.memwb.instr).dest = none ∧
    decode norBehindStore.memwb.instr = .halt :=
  ⟨commits_after (by decide), by decide⟩

/-- LW, SW and a taken and a not taken BEQ in EX. -/
theorem witness_StepRunsTheDecodedInstructions_lw_sw_beq :
    (Commits (pipe noopW 8454150#32 noopW 0#32 noopW 0#32) (after (pipe noopW 8454150#32 noopW 0#32 noopW 0#32)) ∧
      decode 8454150#32 = .lw 0#3 1#3 6#16) ∧
    (Commits (pipe noopW 12648454#32 noopW 0#32 noopW 0#32) (after (pipe noopW 12648454#32 noopW 0#32 noopW 0#32)) ∧
      decode 12648454#32 = .sw 0#3 1#3 6#16) ∧
    (Commits (pipe noopW 16777218#32 noopW 0#32 noopW 0#32) (after (pipe noopW 16777218#32 noopW 0#32 noopW 0#32)) ∧
      decode 16777218#32 = .beq 0#3 0#3 2#16) ∧
    Commits (pipe noopW 16842755#32 noopW 0#32 noopW 0#32) (after (pipe noopW 16842755#32 noopW 0#32 noopW 0#32)) ∧
      decode 16842755#32 = .beq 0#3 1#3 3#16 :=
  ⟨⟨commits_after (by decide), by decide⟩, ⟨commits_after (by decide), by decide⟩,
    ⟨commits_after (by decide), by decide⟩, commits_after (by decide), by decide⟩

/-- JALR, HALT and NOOP in EX. -/
theorem witness_StepRunsTheDecodedInstructions_jalr_halt_noop :
    (Commits (pipe noopW 21626880#32 noopW 0#32 noopW 0#32) (after (pipe noopW 21626880#32 noopW 0#32 noopW 0#32)) ∧
      decode 21626880#32 = .jalr) ∧
    (Commits (pipe noopW haltW noopW 0#32 noopW 0#32) (after (pipe noopW haltW noopW 0#32 noopW 0#32)) ∧
      decode haltW = .halt) ∧
    Commits (pipe noopW noopW noopW 0#32 noopW 0#32) (after (pipe noopW noopW noopW 0#32 noopW 0#32)) ∧
      decode noopW = .noop :=
  ⟨⟨commits_after (by decide), by decide⟩, ⟨commits_after (by decide), by decide⟩, commits_after (by decide), by decide⟩

theorem witness_StoredFetchWordIsFetchedNext :
    State.reset.imem.wf ∧ stalls (flushAdjust State.reset) = false ∧
    Commits (State.reset.withFetchWord 32 8454150) (after (State.reset.withFetchWord 32 8454150)) :=
  ⟨by decide, by decide, commits_after (by decide)⟩

/-- An LW, and a taken BEQ to the highest address its displacement reaches. -/
theorem witness_PlacedWordRunsFirstFromReset :
    (decodeTableWord 32 8454150 = some (.lw 0#3 1#3 6#16) ∧
      exec (.lw 0#3 1#3 6#16) (State.reset.withFetchWord 32 8454150) =
        .next (afterExec (.lw 0#3 1#3 6#16) (State.reset.withFetchWord 32 8454150)) ∧
      (afterExec (.lw 0#3 1#3 6#16) (State.reset.withFetchWord 32 8454150)).fault = none ∧
      (afterExec (.lw 0#3 1#3 6#16) (State.reset.withFetchWord 32 8454150)).pc.toNat < Config.defaultMemSize) ∧
    decodeTableWord 32 16809983 = some (.beq 0#3 0#3 32767#16) ∧
      exec (.beq 0#3 0#3 32767#16) (State.reset.withFetchWord 32 16809983) =
        .next (afterExec (.beq 0#3 0#3 32767#16) (State.reset.withFetchWord 32 16809983)) ∧
      (afterExec (.beq 0#3 0#3 32767#16) (State.reset.withFetchWord 32 16809983)).fault = none ∧
      (afterExec (.beq 0#3 0#3 32767#16) (State.reset.withFetchWord 32 16809983)).pc.toNat < Config.defaultMemSize :=
  ⟨⟨by decide, rfl, by decide, by decide⟩, by decide, rfl, by decide, by decide⟩

/-- LW at address 16 of 16 in MEM, behind it a load-use pair, ahead of it an ADD to register 8. -/
def twoFaults : State := pipe noopW noopW 8454150#32 16#32 8#32 0#32

/-- A cycle that commits and a cycle that faults. -/
theorem witness_EveryCommittedCycleCountsOne :
    (step small = .next (after small) ∧ (after small).fault = none) ∧
    step twoFaults = .next (after twoFaults) ∧ (after twoFaults).fault ≠ none :=
  ⟨⟨step_after (by decide), by decide⟩, step_after (by decide), by decide⟩

theorem witness_FaultingCycleChangesOnlyTheFault :
    step twoFaults = .next (after twoFaults) ∧ (after twoFaults).fault = some (.regIndexOutOfBounds 8) :=
  ⟨step_after (by decide), by decide⟩

/-- A fault in WB, in MEM, in IF at the boundary of each range, and none. -/
theorem witness_OldestFaultIsRecorded :
    (twoFaults.status = .running ∧ (decode twoFaults.memwb.instr).aluSel = .addAB ∧
      8 ≤ (imm16 twoFaults.memwb.instr).toNat) ∧
    ((pipe noopW noopW 8454150#32 16#32 noopW 0#32).status = .running ∧ (decode 8454150#32).aluSel = .addAOff ∧
      (after (pipe noopW noopW 8454150#32 16#32 noopW 0#32)).fault = some (.dataAddressOutOfBounds 16#32)) ∧
    ((small.setPc 16#32).status = .running ∧ stalls (flushAdjust (small.setPc 16#32)) = false ∧
      (after (small.setPc 16#32)).fault = some (.fetchOutOfBounds 16#32)) ∧
    small.status = .running ∧ (after small).fault = none := by decide

theorem witness_InstructionMemoryNeverChanges : step norBehindStore = .next (after norBehindStore) :=
  step_after (by decide)

theorem witness_OnlyWritebackChangesRegisters :
    Commits addBehindLoad (after addBehindLoad) ∧ (after addBehindLoad).reg 7#3 = 30#32 :=
  ⟨commits_after (by decide), by decide⟩

theorem witness_OnlyAStoreInMemChangesDataMemory :
    norBehindStore.dmem.wf ∧ Commits norBehindStore (after norBehindStore) ∧
    (after norBehindStore).dmem.read 0 = 99#32 :=
  ⟨by decide, commits_after (by decide), by decide⟩

/-- 95_test_vectors.md 2.6: the words that stall behind `lw 0 1 6`, and those that do not. -/
theorem test_stall_pairs :
    ([0x000A0003#32, 0x00110003#32, 0x008A0000#32, 0x00CA0000#32, 0x00C10006#32, 0x01080001#32, 0x01010001#32].all
      fun f => loadUseStall ⟨f, 0#32⟩ { bubbleIDEX with instr := 0x00810006#32 }) = true ∧
    ([0x00130001#32, 0x00810007#32, 0x00910000#32, 0x00D30001#32, 0x01130001#32, 0x01C90000#32, 0x01890000#32].any
      fun f => loadUseStall ⟨f, 0#32⟩ { bubbleIDEX with instr := 0x00810006#32 }) = false := by decide

/-- One source of each of the three latches, and none, for register 3 (95_test_vectors.md 2.7, lines 1 to 4). -/
theorem witness_ForwardingPicksTheYoungestSource :
    forwardsTo 0x000A0003#32 3#3 = true ∧ forwardsTo noopW 3#3 = false ∧ forwardsTo 0x00830009#32 3#3 = true ∧
    forwardsTo 0x01DB0003#32 3#3 = false ∧ forwardsTo 0x00C30003#32 3#3 = false := by decide

/-- `add 1 3 3` behind `lw 2 1 0`. -/
def loadUse : State := pipe 720899#32 9502720#32 noopW 0#32 noopW 0#32

theorem witness_StalledCycleHoldsTheFrontEnd :
    stalls (flushAdjust loadUse) = true ∧ step loadUse = .next (after loadUse) ∧ (after loadUse).fault = none :=
  ⟨by decide, step_after (by decide), by decide⟩

theorem witness_StallLastsOneCycle :
    stalls (flushAdjust loadUse) = true ∧ Commits loadUse (after loadUse) :=
  ⟨by decide, commits_after (by decide)⟩

/-- A taken BEQ to 3 in EX/MEM, behind it a store and an ADD. -/
def taken : State := pipe 589826#32 12648455#32 16777218#32 4#32 8454150#32 9#32

theorem witness_FlushCycleFetchesTheTarget : takenBranch taken = true ∧ Commits taken (after taken) :=
  ⟨by decide, commits_after (by decide)⟩

theorem witness_SquashedInstructionsLeaveNoTrace :
    takenBranch taken = true ∧ Commits taken (after taken) ∧ taken.idex ≠ bubbleIDEX :=
  ⟨by decide, commits_after (by decide), by decide⟩

theorem witness_OneTakenBranchFlushesOnce :
    takenBranch taken = true ∧ Commits taken (after taken) ∧ Commits (after taken) (after (after taken)) :=
  ⟨by decide, commits_after (by decide), commits_after (by decide)⟩

/-- `beq 0 0 2` at 6 in ID/EX. -/
def resolving : State := pipe noopW 16777218#32 noopW 0#32 noopW 0#32

theorem witness_TakenBranchFetchesItsTargetOneCycleAfterEx :
    takenBranch resolving = false ∧ decode resolving.idex.instr = .beq 0#3 0#3 2#16 ∧
    operandA resolving = operandB resolving ∧ Commits resolving (after resolving) ∧
    Commits (after resolving) (after (after resolving)) :=
  ⟨by decide, by decide, by decide, commits_after (by decide), commits_after (by decide)⟩

/-- A HALT in ID/EX. -/
def halting : State := pipe noopW haltW noopW 0#32 noopW 0#32

theorem witness_HaltInIdExHaltsInThreeCycles :
    takenBranch halting = false ∧ decode halting.idex.instr = .halt ∧ Commits halting (after halting) ∧
    Commits (after halting) (after (after halting)) ∧
    Commits (after (after halting)) (after (after (after halting))) :=
  ⟨by decide, by decide, commits_after (by decide), commits_after (by decide), commits_after (by decide)⟩

theorem witness_StoreBehindHaltStillStores :
    norBehindStore.status = .running ∧ norBehindStore.dmem.wf ∧ decode norBehindStore.memwb.instr = .halt ∧
    decode norBehindStore.exmem.instr = .sw 0#3 1#3 6#16 ∧
    norBehindStore.exmem.aluResult.toNat < norBehindStore.memSize ∧
    norBehindStore.pc.toNat < norBehindStore.memSize := by decide

theorem witness_StorageInvariantKept : StorageInv norBehindStore ∧ step norBehindStore = .next (after norBehindStore) :=
  ⟨by decide, step_after (by decide)⟩

/-- An ADD in ID/EX that reads what the LW in MEM/WB loads and what the ADD in EX/MEM computes. -/
def forwarding : State := pipe noopW 655363#32 655362#32 12#32 8454150#32 5#32

theorem witness_HazardInvariantKept : HazardInv forwarding ∧ step forwarding = .next (after forwarding) :=
  ⟨by decide, step_after (by decide)⟩

/-- The hypothesis about reset; the one about a step follows it. -/
theorem witness_PcIsTheFetchedAddressPlusOne_load : ∃ s, State.load 16 [haltW] = some s := ⟨_, rfl⟩

theorem witness_PcIsTheFetchedAddressPlusOne : PcTracksIFID forwarding ∧ step forwarding = .next (after forwarding) :=
  ⟨by decide, step_after (by decide)⟩

/-- Two states apart in the don't-care fields of a NOOP in ID/EX and an ADD in EX/MEM. -/
theorem witness_DontCareFieldsInfluenceNothing :
    maskDontCare (pipe noopW noopW 655363#32 12#32 noopW 0#32) =
      maskDontCare { pipe noopW 0x01DF0005#32 655363#32 12#32 noopW 7#32 with
        idex := { bubbleIDEX with readRegA := 77#32, offset := 5#32 }
        exmem := { instr := 655363#32, branchTarget := 1#32, eq := true, aluResult := 12#32, readRegB := 0#32 } } ∧
    step (pipe noopW noopW 655363#32 12#32 noopW 0#32) = .next (after (pipe noopW noopW 655363#32 12#32 noopW 0#32)) :=
  ⟨by decide, step_after (by decide)⟩

/-- Both operands come from latches, and neither is the snapshot. -/
theorem witness_ForwardingDeliversProgramOrderValues :
    HazardInv forwarding ∧ takenBranch forwarding = false ∧ (afterEXMEM forwarding).running = true ∧
    (decode forwarding.idex.instr).readsA = true ∧ (decode forwarding.idex.instr).readsB = true ∧
    operandA forwarding = 5#32 ∧ operandB forwarding = 12#32 := by decide

/-- A cycle that runs one more instruction of the program-order execution, and a stalled one that runs none. -/
theorem witness_EveryCycleRefinesProgramOrder :
    (HazardInv forwarding ∧ Commits forwarding (after forwarding) ∧
      ¬((decode forwarding.memwb.instr).isHalt = true ∧ (decode forwarding.exmem.instr).memWrite = true) ∧
      fetchesInOrder forwarding = true) ∧
    HazardInv loadUse ∧ Commits loadUse (after loadUse) ∧
      ¬((decode loadUse.memwb.instr).isHalt = true ∧ (decode loadUse.exmem.instr).memWrite = true) ∧
      fetchesInOrder loadUse = false :=
  ⟨⟨by decide, commits_after (by decide), by decide, by decide⟩, by decide, commits_after (by decide), by decide,
    by decide⟩

/-- 95_test_vectors.md G with `MEMSIZE` 5: the image of one HALT halts after 5 cycles. -/
theorem witness_HaltedRunAgreesWithProgramOrder :
    ∃ s t, State.load 5 [haltW] = some s ∧ Host.Core.run Sys2Proof.core 5 s = .next t ∧ t.status = .halted ∧
      (decode t.memwb.instr).memWrite = false :=
  ⟨_, _, rfl, rfl, by decide, by decide⟩

/-- 95_test_vectors.md D's shape: the word after the HALT is a store. -/
theorem witness_HaltedRunAgreesWithProgramOrder_store :
    ∃ s t, State.load 5 [haltW, 12648452#32] = some s ∧ Host.Core.run Sys2Proof.core 5 s = .next t ∧
      t.status = .halted ∧ (decode t.memwb.instr).memWrite = true ∧ 3 ≠ t.memwb.writeData.toNat :=
  ⟨_, _, rfl, rfl, by decide, by decide, by decide⟩

theorem witness_HaltedRunCycleCount :
    ∃ s t, State.load 5 [haltW] = some s ∧ Host.Core.run Sys2Proof.core 5 s = .next t ∧ t.status = .halted :=
  ⟨_, _, rfl, rfl, by decide⟩

/-- `beq 0 0 2` at address 0 behind an empty pipeline. -/
def branching : State := small.setImem ⟨[(0, 16777218#32)]⟩

theorem witness_EmptyPipelineRunsTheInstructionAtPc :
    branching.status = .running ∧ PipelineEmpty branching ∧
    Host.Core.run Sys2Proof.core 4 branching = .next (after (after (after (after branching)))) ∧
    Commits (after (after (after (after branching)))) (after (after (after (after (after branching))))) ∧
    branchesIn (branching.imem.read branching.pc.toNat) branching = true :=
  ⟨by decide, by decide, rfl, commits_after (by decide), by decide⟩

/-- `sw 0 1 6` at the highest address from which four words more are in bounds. -/
def storing : State := (small.setPc 11#32).setImem ⟨[(11, 12648454#32)]⟩

theorem witness_EmptyPipelineRunsTheInstructionAtPc_goes_on :
    storing.status = .running ∧ PipelineEmpty storing ∧
    Host.Core.run Sys2Proof.core 4 storing = .next (after (after (after (after storing)))) ∧
    Commits (after (after (after (after storing)))) (after (after (after (after (after storing))))) ∧
    branchesIn (storing.imem.read storing.pc.toNat) storing = false ∧
    (decode (storing.imem.read storing.pc.toNat)).isHalt = false :=
  ⟨by decide, by decide, rfl, commits_after (by decide), by decide, by decide⟩

end Sys2Proof.Tests
end

/-! Proofs. The model's storage: which sizes and images load (R5, R81, R194), and what every step keeps of the size, the
memories and `pc` (R5, R13, R15, R16). -/

namespace Sys2Proof.Proofs.Storage

open Sys2Proof Sys2Proof.Machine Sys2Proof.Safety Sys2Proof.Laws

/-! ### Loading -/

theorem memSizeAllowed_iff (n : Nat) : memSizeAllowed n = true ↔ 1 ≤ n ∧ n ≤ 2 ^ 31 := by
  rw [memSizeAllowed, Bool.and_eq_true, decide_eq_true_iff, decide_eq_true_iff, Config.maxMemSize]

theorem imageFits_iff (n : Nat) (image : List Word) : imageFits n image = true ↔ image.length ≤ n := by
  simp [imageFits]

/-- All that a load can answer (R81, R194, R200). -/
theorem load_cases (n : Nat) (image : List Word) :
    ((memSizeAllowed n = true ∧ imageFits n image = true) ∧
      State.load n image =
        some { State.reset with memSize := n, imem := Memory.ofImage image, dmem := Memory.ofImage image }) ∨
    (¬ (memSizeAllowed n = true ∧ imageFits n image = true) ∧ State.load n image = none) := by
  by_cases h : memSizeAllowed n = true ∧ imageFits n image = true
  · exact .inl ⟨h, by simp [State.load, h]⟩
  · exact .inr ⟨h, by simpa [State.load] using h⟩

/-- Settles O19: of the two answers of a load, the state is the one under R5's two checks. -/
theorem onlyFittingImagesLoad : Obligations.OnlyFittingImagesLoad := by
  intro memSize image
  rw [← imageFits_iff, ← and_assoc, ← memSizeAllowed_iff]
  rcases load_cases memSize image with ⟨hok, hload⟩ | ⟨hbad, hload⟩
  · exact iff_of_true ⟨_, hload⟩ hok
  · exact iff_of_false (by simp [hload]) hbad

/-! ### What each stage keeps -/

/-- The address after an in-bounds one is at most the bound: the addition modulo 2^32 can only wrap downward. -/
theorem nextAddr_le_of_lt {a : Word} {n : Nat} (h : a.toNat < n) : (nextAddr a).toNat ≤ n :=
  calc (nextAddr a).toNat = (a.toNat + 1) % 2 ^ 32 := BitVec.toNat_add a 1#32
    _ ≤ a.toNat + 1 := Nat.mod_le _ _
    _ ≤ n := h

/-- A cycle that flushes does not stall: ID/EX is a bubble when the hazard decision is taken (R173, R112). -/
theorem not_takenBranch_of_stalls {s : State} (h : stalls (flushAdjust s) = true) : takenBranch s = false := by
  cases htaken : takenBranch s with
  | false => rfl
  | true => simp [stalls, flushAdjust_idex, htaken] at h

/-- The `pc` that IF hands on is held in a stall and otherwise follows an address that passed the bounds check, so a
branch target needs no range of its own (R125, R126). -/
theorem ifStage_pc_le {t : State} {stall : Bool} {pc : Word} {ifid : IFID} (h : ifStage t stall = .ok (pc, ifid))
    (hheld : stall = true → t.pc.toNat ≤ t.memSize) : pc.toNat ≤ t.memSize := by
  rcases ifStage_cases t stall with ⟨hstall, e⟩ | ⟨-, hfetch, e⟩ | ⟨-, -, e⟩
  · cases e.symm.trans h
    exact hheld hstall
  · cases e.symm.trans h
    exact nextAddr_le_of_lt hfetch
  · cases e.symm.trans h

/-- The data memory that MEM hands on is the old one, or the old one with one in-bounds word written (R133). -/
theorem memStage_dmem {t : State} {memwb : MEMWB} {dmem : Memory} (h : memStage t = .ok (memwb, dmem)) :
    dmem = t.dmem ∨
      (t.exmem.aluResult.toNat < t.memSize ∧ dmem = t.dmem.write t.exmem.aluResult.toNat t.exmem.readRegB) := by
  rcases memStage_cases t with ⟨-, -, e⟩ | ⟨-, hbound, e⟩ | ⟨-, -, e⟩ | ⟨-, -, e⟩
  · cases e.symm.trans h
    exact .inl rfl
  · cases e.symm.trans h
    exact .inr ⟨hbound, rfl⟩
  · cases e.symm.trans h
    exact .inl rfl
  · cases e.symm.trans h

theorem memStage_keeps_canonical {t : State} {memwb : MEMWB} {dmem : Memory} (h : memStage t = .ok (memwb, dmem))
    (hwf : t.dmem.wf) (hin : t.dmem.within t.memSize) : dmem.wf ∧ dmem.within t.memSize := by
  rcases memStage_dmem h with rfl | ⟨hbound, rfl⟩
  · exact ⟨hwf, hin⟩
  · exact ⟨wf_write hwf _ _, within_write hin hbound _⟩

/-! ### What a cycle keeps -/

/-- A fault changes the fault record alone, which the storage invariant does not read (R184). -/
theorem storageInv_takeFault {s : State} (h : StorageInv s) (f : MachineFault) : StorageInv (s.takeFault f) := h

/-- The stages run on the flush-adjusted state, whose size and memories are the current ones. -/
theorem runStages_keeps_storageInv {s t : State} (hinv : StorageInv s)
    (h : runStages s (flushAdjust s) = .ok t) : StorageInv t := by
  obtain ⟨hsize, ⟨hiwf, hdwf, hiin, hdin⟩, hpc⟩ := hinv
  obtain ⟨wbend, regs, memwb, dmem, pc, ifid, -, hmem, hif, rfl⟩ := runStages_ok h
  obtain ⟨hwf, hin⟩ := memStage_keeps_canonical hmem (by simpa using hdwf) (by simpa using hdin)
  have hheld : stalls (flushAdjust s) = true → (flushAdjust s).pc.toNat ≤ (flushAdjust s).memSize := by
    intro hstall
    rw [flushAdjust_of_not_taken s (not_takenBranch_of_stalls hstall)]
    exact hpc
  have hnext := ifStage_pc_le hif hheld
  rw [flushAdjust_memSize] at hin hnext
  exact ⟨hsize, ⟨hiwf, hwf, hiin, hin⟩, hnext⟩

/-- Settles O41: a step takes a fault on the state itself or commits its stages' outputs. -/
theorem storageInvariantKept : Obligations.StorageInvariantKept := by
  intro s t hinv hstep
  rcases (step_next hstep).2 with ⟨f, -, rfl⟩ | hcommit
  · exact storageInv_takeFault hinv f
  · exact runStages_keeps_storageInv hinv hcommit

end Sys2Proof.Proofs.Storage

/-! Proofs. The don't-care latch fields of R32 influence nothing but don't-care latch fields (R33): a step of a state and
a step of the same state with those fields blanked end alike once the fields are blanked again. -/

namespace Sys2Proof.Proofs.DontCare

open Sys2Proof Sys2Proof.Machine Sys2Proof.Laws

/-! ### What blanking leaves of a field -/

@[simp] theorem meaningfulWord_true (v : Word) : meaningfulWord true v = v := rfl

@[simp] theorem meaningfulWord_false (v : Word) : meaningfulWord false v = 0#32 := rfl

/-- A field blanked for fewer opcodes before it is blanked for more is just blanked for more. -/
theorem meaningfulWord_meaningfulWord {b c : Bool} (h : b = true → c = true) (v : Word) :
    meaningfulWord b (meaningfulWord c v) = meaningfulWord b v := by
  cases b with
  | false => rfl
  | true => rw [h rfl, meaningfulWord_true]

theorem meaningfulWord_congr {b : Bool} {v w : Word} (h : b = true → v = w) :
    meaningfulWord b v = meaningfulWord b w := by
  cases b with
  | false => rfl
  | true => rw [h rfl]

@[simp] theorem maskIFID_instr (l : IFID) : (maskIFID l).instr = l.instr := rfl
@[simp] theorem maskIDEX_instr (l : IDEX) : (maskIDEX l).instr = l.instr := rfl
@[simp] theorem maskEXMEM_instr (l : EXMEM) : (maskEXMEM l).instr = l.instr := rfl
@[simp] theorem maskMEMWB_instr (l : MEMWB) : (maskMEMWB l).instr = l.instr := rfl
@[simp] theorem maskWBEND_instr (l : WBEND) : (maskWBEND l).instr = l.instr := rfl

theorem maskIDEX_pcPlus1 {l : IDEX} (h : (decode l.instr).isBranch = true) : (maskIDEX l).pcPlus1 = l.pcPlus1 := by
  simp [maskIDEX, h]

theorem maskIDEX_readRegA {l : IDEX} (h : (decode l.instr).readsA = true) : (maskIDEX l).readRegA = l.readRegA := by
  simp [maskIDEX, h]

theorem maskIDEX_readRegB {l : IDEX} (h : (decode l.instr).readsB = true) : (maskIDEX l).readRegB = l.readRegB := by
  simp [maskIDEX, h]

theorem maskIDEX_offset {l : IDEX} (h : offsetMeaningful (decode l.instr) = true) :
    (maskIDEX l).offset = l.offset := by
  simp [maskIDEX, h]

theorem maskEXMEM_branchTarget {l : EXMEM} (h : (decode l.instr).isBranch = true) :
    (maskEXMEM l).branchTarget = l.branchTarget := by
  simp [maskEXMEM, h]

theorem maskEXMEM_aluResult {l : EXMEM} (h : aluResultMeaningful (decode l.instr) = true) :
    (maskEXMEM l).aluResult = l.aluResult := by
  simp [maskEXMEM, h]

theorem maskEXMEM_readRegB {l : EXMEM} (h : (decode l.instr).memWrite = true) :
    (maskEXMEM l).readRegB = l.readRegB := by
  simp [maskEXMEM, h]

theorem maskMEMWB_writeData {l : MEMWB} (h : (decode l.instr).regWrite = true) :
    (maskMEMWB l).writeData = l.writeData := by
  simp [maskMEMWB, h]

theorem maskWBEND_writeData {l : WBEND} (h : (decode l.instr).regWrite = true) :
    (maskWBEND l).writeData = l.writeData := by
  simp [maskWBEND, h]

/-- Two EX/MEM latches that agree on the word and on what is meaningful for it are blanked to the same one. -/
theorem maskEXMEM_congr {k l : EXMEM} (hinstr : k.instr = l.instr)
    (htarget : (decode l.instr).isBranch = true → k.branchTarget = l.branchTarget)
    (heq : (decode l.instr).isBranch = true → k.eq = l.eq)
    (halu : aluResultMeaningful (decode l.instr) = true → k.aluResult = l.aluResult)
    (hreg : (decode l.instr).memWrite = true → k.readRegB = l.readRegB) : maskEXMEM k = maskEXMEM l := by
  have hbool : ((decode l.instr).isBranch && k.eq) = ((decode l.instr).isBranch && l.eq) := by
    cases hb : (decode l.instr).isBranch with
    | false => rfl
    | true => rw [heq hb]
  simp only [maskEXMEM, hinstr, hbool, meaningfulWord_congr htarget, meaningfulWord_congr halu,
    meaningfulWord_congr hreg]

@[simp] theorem maskDontCare_memSize (s : State) : (maskDontCare s).memSize = s.memSize := rfl
@[simp] theorem maskDontCare_pc (s : State) : (maskDontCare s).pc = s.pc := rfl
@[simp] theorem maskDontCare_imem (s : State) : (maskDontCare s).imem = s.imem := rfl
@[simp] theorem maskDontCare_dmem (s : State) : (maskDontCare s).dmem = s.dmem := rfl
@[simp] theorem maskDontCare_regs (s : State) : (maskDontCare s).regs = s.regs := rfl
@[simp] theorem maskDontCare_ifid (s : State) : (maskDontCare s).ifid = maskIFID s.ifid := rfl
@[simp] theorem maskDontCare_idex (s : State) : (maskDontCare s).idex = maskIDEX s.idex := rfl
@[simp] theorem maskDontCare_exmem (s : State) : (maskDontCare s).exmem = maskEXMEM s.exmem := rfl
@[simp] theorem maskDontCare_memwb (s : State) : (maskDontCare s).memwb = maskMEMWB s.memwb := rfl
@[simp] theorem maskDontCare_wbend (s : State) : (maskDontCare s).wbend = maskWBEND s.wbend := rfl
@[simp] theorem maskDontCare_fault (s : State) : (maskDontCare s).fault = s.fault := rfl
@[simp] theorem maskDontCare_halted (s : State) : (maskDontCare s).halted = s.halted := rfl

/-- Blanking twice is blanking once. -/
theorem maskDontCare_maskDontCare (s : State) : maskDontCare (maskDontCare s) = maskDontCare s := by
  simp [maskDontCare, maskIFID, maskIDEX, maskEXMEM, maskMEMWB, maskWBEND, meaningfulWord_meaningfulWord]

/-- A fault changes no latch (R184). -/
theorem maskDontCare_takeFault (s : State) (f : MachineFault) :
    maskDontCare (s.takeFault f) = (maskDontCare s).takeFault f := rfl

/-! A bubble is a no-op with every other field 0, so it has nothing to blank (R31). -/

@[simp] theorem maskIFID_bubble : maskIFID bubbleIFID = bubbleIFID := by simp [maskIFID, bubbleIFID, meaningfulWord]
@[simp] theorem maskIDEX_bubble : maskIDEX bubbleIDEX = bubbleIDEX := by simp [maskIDEX, bubbleIDEX, meaningfulWord]
@[simp] theorem maskEXMEM_bubble : maskEXMEM bubbleEXMEM = bubbleEXMEM := by
  simp [maskEXMEM, bubbleEXMEM, meaningfulWord]

/-! ### Which opcodes give a field its meaning -/

/-- A forwarding source is an instruction with a result (R161). -/
theorem regWrite_of_forwardsTo {w : Word} {r : RegIdx} (h : forwardsTo w r = true) : (decode w).regWrite = true := by
  rw [Instr.regWrite, eq_of_beq h, Option.isSome_some]

theorem aluResultMeaningful_of_regWrite {i : Instr} (h : i.regWrite = true) : aluResultMeaningful i = true := by
  simp [aluResultMeaningful, h]

theorem aluResultMeaningful_of_memWrite {i : Instr} (h : i.memWrite = true) : aluResultMeaningful i = true := by
  simp [aluResultMeaningful, h]

theorem aluResultMeaningful_of_memRead {i : Instr} (h : i.memRead = true) : aluResultMeaningful i = true := by
  obtain ⟨a, b, off, rfl⟩ := (memRead_iff i).1 h
  rfl

/-! ### The flush and the hazard decision read no don't-care field -/

@[simp] theorem takenBranch_maskDontCare (s : State) : takenBranch (maskDontCare s) = takenBranch s := by
  simp [takenBranch, maskEXMEM]

/-- The target that a flush reads is a BEQ's, and what it puts in the latches is bubbles (R172, R173). -/
theorem flushAdjust_maskDontCare (s : State) : flushAdjust (maskDontCare s) = maskDontCare (flushAdjust s) := by
  cases htaken : takenBranch s with
  | false => simp [flushAdjust, htaken]
  | true =>
    have hbranch : (decode s.exmem.instr).isBranch = true := (Bool.and_eq_true_iff.1 htaken).1
    simp only [flushAdjust, takenBranch_maskDontCare, htaken, if_true, maskDontCare_exmem,
      maskEXMEM_branchTarget hbranch]
    simp [maskDontCare]

@[simp] theorem stalls_maskDontCare (t : State) : stalls (maskDontCare t) = stalls t := rfl

/-! ### The five stages -/

/-- Every value that the network forwards is the result of an instruction that has one (R161, R163). -/
theorem fwd_mask (r : RegIdx) (v : Word) (e : EXMEM) (m : MEMWB) (w : WBEND) :
    fwd r v (maskEXMEM e) (maskMEMWB m) (maskWBEND w) = fwd r v e m w := by
  rcases fwd_cases r v e m w with ⟨he, -⟩ | ⟨he, hm, -⟩ | ⟨he, hm, hw, -⟩ | ⟨he, hm, hw, -⟩
  · simp [fwd, he, maskEXMEM_aluResult (aluResultMeaningful_of_regWrite (regWrite_of_forwardsTo he))]
  · simp [fwd, he, hm, maskMEMWB_writeData (regWrite_of_forwardsTo hm)]
  · simp [fwd, he, hm, hw, maskWBEND_writeData (regWrite_of_forwardsTo hw)]
  · simp [fwd, he, hm, hw]

theorem operandA_maskDontCare {t : State} (h : (decode t.idex.instr).readsA = true) :
    operandA (maskDontCare t) = operandA t := by
  simp [operandA, fwd_mask, maskIDEX_readRegA h]

theorem operandB_maskDontCare {t : State} (h : (decode t.idex.instr).readsB = true) :
    operandB (maskDontCare t) = operandB t := by
  simp [operandB, fwd_mask, maskIDEX_readRegB h]

theorem ifStage_maskDontCare (t : State) (stall : Bool) :
    (ifStage (maskDontCare t) stall).map (Prod.map id maskIFID) = (ifStage t stall).map (Prod.map id maskIFID) := by
  cases stall with
  | false => rfl
  | true => simp [ifStage, Except.map, maskIFID, meaningfulWord_meaningfulWord]

theorem idStage_maskDontCare (t : State) (stall : Bool) :
    maskIDEX (idStage (maskDontCare t) stall) = maskIDEX (idStage t stall) := by
  cases stall with
  | true => rfl
  | false => simp [idStage, maskIDEX, maskIFID, meaningfulWord_meaningfulWord]

theorem exBranchTarget_maskDontCare {t : State} (h : (decode t.idex.instr).isBranch = true) :
    exBranchTarget (maskDontCare t) = exBranchTarget t := by
  have hoffset : offsetMeaningful (decode t.idex.instr) = true := by simp [offsetMeaningful, h]
  simp [exBranchTarget, maskIDEX_pcPlus1 h, maskIDEX_offset hoffset]

/-- A BEQ reads both operands that its outcome compares (R68, R131). -/
theorem branchOutcome_maskDontCare {t : State} (h : (decode t.idex.instr).isBranch = true) :
    branchOutcome (decode t.idex.instr) (operandA (maskDontCare t)) (operandB (maskDontCare t)) =
      branchOutcome (decode t.idex.instr) (operandA t) (operandB t) := by
  obtain ⟨a, b, off, hbeq⟩ := (isBranch_iff _).1 h
  rw [operandA_maskDontCare (by rw [hbeq]; rfl), operandB_maskDontCare (by rw [hbeq]; rfl)]

/-- Where the ALU result is meaningful, the operands that the ALU selects are the ones the opcode reads (R32, R68). -/
theorem exStage_aluResult_maskDontCare {t : State} (h : aluResultMeaningful (decode t.idex.instr) = true) :
    (exStage (maskDontCare t)).aluResult = (exStage t).aluResult := by
  have hA := operandA_maskDontCare (t := t)
  have hB := operandB_maskDontCare (t := t)
  have hoff := maskIDEX_offset (l := t.idex)
  simp only [exStage, maskDontCare_idex, maskIDEX_instr]
  cases hi : decode t.idex.instr with
  | add | nor =>
    rw [hi] at hA hB
    rw [hA rfl, hB rfl]
    rfl
  | lw | sw =>
    rw [hi] at hA hoff
    rw [hA rfl, hoff rfl]
    rfl
  | beq | jalr | halt | noop => simp [hi, aluResultMeaningful, Instr.regWrite, Instr.dest, Instr.memWrite] at h

theorem exStage_maskDontCare (t : State) : maskEXMEM (exStage (maskDontCare t)) = maskEXMEM (exStage t) := by
  refine maskEXMEM_congr rfl exBranchTarget_maskDontCare branchOutcome_maskDontCare exStage_aluResult_maskDontCare ?_
  intro hstore
  obtain ⟨a, b, off, hsw⟩ := (memWrite_iff _).1 hstore
  exact operandB_maskDontCare (by rw [show decode t.idex.instr = .sw a b off from hsw]; rfl)

/-- An LW and an SW read meaningful fields alone; of another opcode only the result passes (R133, R134). -/
theorem memStage_maskDontCare (t : State) :
    (memStage (maskDontCare t)).map (Prod.map maskMEMWB id) = (memStage t).map (Prod.map maskMEMWB id) := by
  cases hread : (decode t.exmem.instr).memRead with
  | true => simp [memStage, hread, maskEXMEM_aluResult (aluResultMeaningful_of_memRead hread)]
  | false =>
    cases hwrite : (decode t.exmem.instr).memWrite with
    | true =>
      simp [memStage, hread, hwrite, maskEXMEM_aluResult (aluResultMeaningful_of_memWrite hwrite),
        maskEXMEM_readRegB hwrite]
    | false =>
      simp [memStage, hread, hwrite, Except.map, maskMEMWB, maskEXMEM,
        meaningfulWord_meaningfulWord aluResultMeaningful_of_regWrite]

/-- The value of an instruction with a destination is meaningful (R32, R66). -/
theorem wbStage_maskDontCare (t : State) :
    (wbStage (maskDontCare t)).map (Prod.map maskWBEND id) = (wbStage t).map (Prod.map maskWBEND id) := by
  cases hdest : (decode t.memwb.instr).dest with
  | none => simp [wbStage, hdest, Except.map, maskWBEND, maskMEMWB, meaningfulWord_meaningfulWord]
  | some d =>
    have hwrite : (decode t.memwb.instr).regWrite = true := by rw [Instr.regWrite, hdest, Option.isSome_some]
    simp [wbStage, hdest, maskMEMWB_writeData hwrite]

/-! ### The cycle and the step -/

/-- Two results with the same image under `g` are the same error, or two values with the same image. -/
theorem cases_of_map_eq {ε α β : Type} {g : α → β} {x y : Except ε α} (h : x.map g = y.map g) :
    (∃ e, x = .error e ∧ y = .error e) ∨ ∃ a b, x = .ok a ∧ y = .ok b ∧ g a = g b := by
  cases x with
  | error e =>
    cases y with
    | error e' => cases h; exact .inl ⟨e, rfl, rfl⟩
    | ok b => cases h
  | ok a =>
    cases y with
    | error e => cases h
    | ok b => exact .inr ⟨a, b, rfl, rfl, Except.ok.inj h⟩

theorem maskDontCare_commit (s : State) (pc : Word) (ifid : IFID) (idex : IDEX) (exmem : EXMEM) (memwb : MEMWB)
    (wbend : WBEND) (regs : Vector Word 8) (dmem : Memory) :
    maskDontCare (commit s pc ifid idex exmem memwb wbend regs dmem) =
      commit s pc (maskIFID ifid) (maskIDEX idex) (maskEXMEM exmem) (maskMEMWB memwb) (maskWBEND wbend) regs dmem :=
  rfl

/-- A commit takes nothing from the latches of the state it replaces (R113). -/
theorem commit_maskDontCare (s : State) : commit (maskDontCare s) = commit s := rfl

theorem runStages_maskDontCare (s t : State) :
    (runStages (maskDontCare s) (maskDontCare t)).map maskDontCare = (runStages s t).map maskDontCare := by
  rcases cases_of_map_eq (wbStage_maskDontCare t) with ⟨f, e, e'⟩ | ⟨⟨wbend, regs⟩, ⟨wbend', regs'⟩, ew, ew', hwb⟩
  · simp [runStages, e, e']
  rcases cases_of_map_eq (memStage_maskDontCare t) with ⟨f, e, e'⟩ | ⟨⟨memwb, dmem⟩, ⟨memwb', dmem'⟩, em, em', hmem⟩
  · simp [runStages, ew, ew', e, e']
  rcases cases_of_map_eq (ifStage_maskDontCare t (stalls t)) with ⟨f, e, e'⟩ | ⟨⟨pc, ifid⟩, ⟨pc', ifid'⟩, ei, ei', hif⟩
  · simp [runStages, ew, ew', em, em', e, e']
  obtain ⟨hwbend, rfl⟩ := Prod.mk.inj hwb
  obtain ⟨hmemwb, rfl⟩ := Prod.mk.inj hmem
  obtain ⟨rfl, hifid⟩ := Prod.mk.inj hif
  simp [runStages, ew, ew', em, em', ei, ei', Except.map, commit_maskDontCare, maskDontCare_commit,
    idStage_maskDontCare, exStage_maskDontCare, hwbend, hmemwb, hifid]

/-- An outcome with the don't-care fields of its next state blanked. -/
def maskOutcome : Outcome → Outcome
  | .next t => .next (maskDontCare t)
  | .fault r => .fault r
  | .refused r => .refused r

theorem maskOutcome_eq_next {o : Outcome} {u : State} (h : maskOutcome o = .next u) :
    ∃ t, o = .next t ∧ maskDontCare t = u := by
  cases o with
  | next t => exact ⟨t, rfl, Host.Outcome.next.inj h⟩
  | fault r => cases h
  | refused r => cases h

theorem maskOutcome_cycle (s : State) : maskOutcome (cycle (maskDontCare s)) = maskOutcome (cycle s) := by
  have hstages := runStages_maskDontCare s (flushAdjust s)
  rw [← flushAdjust_maskDontCare] at hstages
  unfold cycle
  rcases cases_of_map_eq hstages with ⟨f, e, e'⟩ | ⟨t, t', e, e', hmask⟩
  · rw [e, e', settle_error, settle_error, maskOutcome, maskOutcome, maskDontCare_takeFault,
      maskDontCare_maskDontCare, ← maskDontCare_takeFault]
  · rw [e, e', settle_ok, settle_ok, maskOutcome, maskOutcome, hmask]

/-- Blanking before a step changes nothing but what is blanked after it (R33). -/
theorem maskOutcome_step (s : State) : maskOutcome (step (maskDontCare s)) = maskOutcome (step s) := by
  cases hfault : s.fault with
  | some f => simp [step, whileRunning, hfault, maskOutcome]
  | none =>
    cases hhalted : s.halted with
    | true => simp [step, whileRunning, hfault, hhalted, maskOutcome]
    | false => simpa [step, whileRunning, hfault, hhalted] using maskOutcome_cycle s

/-- Settles O46: both states step as the one blanked state that they share. -/
theorem dontCareFieldsInfluenceNothing : Obligations.DontCareFieldsInfluenceNothing := by
  intro s s' t hmask hstep
  have hshared : maskOutcome (step s') = .next (maskDontCare t) :=
    calc maskOutcome (step s') = maskOutcome (step (maskDontCare s')) := (maskOutcome_step s').symm
      _ = maskOutcome (step (maskDontCare s)) := by rw [hmask]
      _ = maskOutcome (step s) := maskOutcome_step s
      _ = .next (maskDontCare t) := by rw [hstep, maskOutcome]
  obtain ⟨t', hstep', hmask'⟩ := maskOutcome_eq_next hshared
  exact ⟨t', hstep', hmask'.symm⟩

end Sys2Proof.Proofs.DontCare

/-! Proofs. The state after reset with any size and image (R30, R200): every component, and the invariants that the other
statements start from. -/

namespace Sys2Proof.Proofs.Reset

open Sys2Proof Sys2Proof.Machine Sys2Proof.Safety Sys2Proof.Laws Sys2Proof.Proofs.Storage

/-! ### What a load answers -/

/-- A load that answers checked the size and the image, and answers reset with both memories holding the image. -/
theorem load_eq_some {n : Nat} {image : List Word} {s : State} (h : State.load n image = some s) :
    memSizeAllowed n = true ∧ image.length ≤ n ∧
      s = { State.reset with memSize := n, imem := Memory.ofImage image, dmem := Memory.ofImage image } := by
  rcases load_cases n image with ⟨⟨hsize, hfits⟩, hload⟩ | ⟨-, hload⟩
  · exact ⟨hsize, (imageFits_iff n image).1 hfits, Option.some.inj (h.symm.trans hload)⟩
  · cases h.symm.trans hload

/-- `State.reset` is what a load of the empty image into memories of the default size answers (R203). -/
theorem load_default_nil : State.load Config.defaultMemSize [] = some State.reset := rfl

/-- What holds of every state that a load answers holds of `State.reset` too. -/
theorem reset_and_load {P : State → Prop}
    (h : ∀ (n : Nat) (image : List Word) (s : State), State.load n image = some s → P s) :
    P State.reset ∧ ∀ (n : Nat) (image : List Word) (s : State), State.load n image = some s → P s :=
  ⟨h _ _ _ load_default_nil, h⟩

/-! ### What the memories and registers hold -/

/-- An image placed from address `a` reads back at its own addresses, and as unlisted from its end on. -/
theorem cellsRead_cellsOfImage (image : List Word) (a k : Nat) :
    cellsRead (cellsOfImage a image) (a + k) = image[k]?.getD Config.unlistedWord := by
  induction image generalizing a k with
  | nil => rfl
  | cons w rest ih =>
    cases k with
    | zero =>
      have habove : cellsRead (cellsOfImage (a + 1) rest) a = Config.unlistedWord :=
        cellsRead_of_lt fun _ hq => (le_of_mem_cellsOfImage hq).1
      by_cases hw : w = Config.unlistedWord <;> simp [cellsOfImage, cellsRead, hw, habove]
    | succ k =>
      have hrest := ih (a + 1) k
      rw [Nat.add_right_comm, Nat.add_assoc] at hrest
      by_cases hw : w = Config.unlistedWord <;> simp [cellsOfImage, cellsRead, hw, hrest]

theorem read_ofImage (image : List Word) (a : Nat) :
    (Memory.ofImage image).read a = image[a]?.getD Config.unlistedWord := by
  have h := cellsRead_cellsOfImage image 0 a
  rwa [Nat.zero_add] at h

theorem read_ofImage_of_lt {image : List Word} {a : Nat} (h : a < image.length) :
    (Memory.ofImage image).read a = image[a] := by
  simp [read_ofImage, h]

theorem read_ofImage_of_le {image : List Word} {a : Nat} (h : image.length ≤ a) :
    (Memory.ofImage image).read a = 0#32 := by
  simp [read_ofImage, h, Config.unlistedWord]

theorem readReg_replicate (v : Word) (r : RegIdx) : readReg (Vector.replicate 8 v) r = v := by
  simp [readReg]

/-! ### The statements about reset -/

/-- Settles O18: the latches and counters are those of reset, the memories read back the image, and a no-op in WB/END
does not halt. -/
theorem resetLoadsEveryComponent : Obligations.ResetLoadsEveryComponent := by
  intro memSize image s hload
  obtain ⟨-, -, rfl⟩ := load_eq_some hload
  have hregs : ∀ r : RegIdx, readReg (Vector.replicate 8 0#32) r = 0#32 := readReg_replicate 0#32
  have hlow : ∀ (a : Nat) (h : a < image.length), (Memory.ofImage image).read a = image[a] :=
    fun _ h => read_ofImage_of_lt h
  have hhigh : ∀ a : Nat, image.length ≤ a → (Memory.ofImage image).read a = 0#32 := fun _ h => read_ofImage_of_le h
  have hrunning : (decode noopW).isHalt = false := by decide
  exact ⟨rfl, fun a h => ⟨hlow a h, hlow a h⟩, fun a h => ⟨hhigh a h, hhigh a h⟩, hregs, rfl, rfl, rfl, rfl, rfl, rfl,
    rfl, rfl, (status_running_iff _).2 ⟨rfl, hrunning⟩⟩

/-- Settles O42: the image is placed in canonical form within the size that the load checked, and `pc` is 0. -/
theorem storageInvariantAtReset : Obligations.StorageInvariantAtReset := by
  refine reset_and_load fun n image s hload => ?_
  obtain ⟨hsize, hfits, rfl⟩ := load_eq_some hload
  exact ⟨hsize, ⟨wf_ofImage image, wf_ofImage image, within_ofImage hfits, within_ofImage hfits⟩, Nat.zero_le n⟩

/-- A pipeline of no-ops holds no branch, no LW, no forwarding source and no reader, and the no-op word's own offset
is 0. -/
theorem hazardInv_of_pipelineEmpty {s : State} (hempty : PipelineEmpty s) (heq : s.exmem.eq = false)
    (hoffset : s.idex.offset = 0#32) : HazardInv s := by
  obtain ⟨-, hidex, hexmem, -, hwbend⟩ := hempty
  have eqOnlyForBeq : EqOnlyForBeq s := by simp [EqOnlyForBeq, heq]
  have offsetDecoded : OffsetDecoded s := by simp [OffsetDecoded, hidex, hoffset]
  have noLoad : NoLoadUseBehindLoad s := by simp [NoLoadUseBehindLoad, hidex]
  have noSource : RetiredValueWritten s := by simp [RetiredValueWritten, hwbend]
  have noReader : SnapshotsFresh s := by simp [SnapshotsFresh, hidex, Instr.readsA, Instr.readsB]
  exact ⟨eqOnlyForBeq, offsetDecoded, noLoad, noSource, noReader⟩

/-- Settles O44: reset leaves the pipeline empty, `eq` false and ID/EX's offset 0. -/
theorem hazardInvariantAtReset : Obligations.HazardInvariantAtReset := by
  refine reset_and_load fun n image s hload => ?_
  obtain ⟨-, -, rfl⟩ := load_eq_some hload
  exact hazardInv_of_pipelineEmpty ⟨rfl, rfl, rfl, rfl, rfl⟩ rfl rfl

end Sys2Proof.Proofs.Reset

/-! Proofs. What a step leaves alone: instruction memory, the words of data memory that no store addresses, and the tie
between `pc` and IF/ID (R14, R15, R16, R50). -/

namespace Sys2Proof.Proofs.Frames

open Sys2Proof Sys2Proof.Machine Sys2Proof.Safety Sys2Proof.Laws Sys2Proof.Proofs.Storage Sys2Proof.Proofs.Reset

/-- Settles O27: a fault keeps both, and a commit takes both from the state before. -/
theorem instructionMemoryNeverChanges : Obligations.InstructionMemoryNeverChanges := by
  intro s t hstep
  rcases (step_next hstep).2 with ⟨f, -, rfl⟩ | hcommit
  · exact ⟨rfl, rfl⟩
  · obtain ⟨wbend, regs, memwb, dmem, pc, ifid, -, -, -, rfl⟩ := runStages_ok hcommit
    exact ⟨rfl, rfl⟩

/-! ### Data memory -/

theorem memWrite_eq_false_of_memRead {i : Instr} (h : i.memRead = true) : i.memWrite = false := by
  obtain ⟨a, b, off, rfl⟩ := (memRead_iff i).1 h
  rfl

theorem memWrite_eq_false_of_isBranch {i : Instr} (h : i.isBranch = true) : i.memWrite = false := by
  obtain ⟨a, b, off, rfl⟩ := (isBranch_iff i).1 h
  rfl

/-- The data memory word at `n` once the instruction in EX/MEM has done its store, if it is an SW (R133). -/
def wordAfterMem (t : State) (n : Nat) : Word :=
  if (decode t.exmem.instr).memWrite = true ∧ n = t.exmem.aluResult.toNat then t.exmem.readRegB else t.dmem.read n

/-- MEM hands on a data memory that holds those words. -/
theorem memStage_read {t : State} {memwb : MEMWB} {dmem : Memory} (hwf : t.dmem.wf)
    (h : memStage t = .ok (memwb, dmem)) (n : Nat) : dmem.read n = wordAfterMem t n := by
  rcases memStage_cases t with ⟨hload, -, e⟩ | ⟨hstore, -, e⟩ | ⟨-, hother, e⟩ | ⟨-, -, e⟩
  · cases e.symm.trans h
    simp [wordAfterMem, memWrite_eq_false_of_memRead hload]
  · cases e.symm.trans h
    simp [wordAfterMem, hstore, read_write hwf]
  · cases e.symm.trans h
    simp [wordAfterMem, hother]
  · cases e.symm.trans h

/-- A flush puts a bubble in place of a BEQ, and neither of them stores (R173). -/
theorem wordAfterMem_flushAdjust (s : State) (n : Nat) : wordAfterMem (flushAdjust s) n = wordAfterMem s n := by
  cases htaken : takenBranch s with
  | false => rw [flushAdjust_of_not_taken s htaken]
  | true =>
    have hbranch : (decode s.exmem.instr).isBranch = true := (Bool.and_eq_true_iff.1 htaken).1
    have hbubble : (decode bubbleEXMEM.instr).memWrite = false := by decide
    simp [wordAfterMem, flushAdjust_exmem, htaken, hbubble, memWrite_eq_false_of_isBranch hbranch]

/-- Settles O29: the committed data memory is the one that MEM hands on. -/
theorem onlyAStoreInMemChangesDataMemory : Obligations.OnlyAStoreInMemChangesDataMemory := by
  rintro s t hwf ⟨hstep, hfault⟩ n
  obtain ⟨wbend, regs, memwb, dmem, pc, ifid, -, hmem, -, rfl⟩ := step_commits hstep hfault
  exact (memStage_read (by simpa using hwf) hmem n).trans (wordAfterMem_flushAdjust s n)

/-! ### `pc` and IF/ID -/

/-- IF writes `pc` and IF/ID's `pcPlus1` with one fetch, or holds both (R125, R126). -/
theorem ifStage_tracks {t : State} {stall : Bool} {pc : Word} {ifid : IFID} (h : ifStage t stall = .ok (pc, ifid))
    (hheld : stall = true → PcTracksIFID t) : pc = ifid.pcPlus1 := by
  rcases ifStage_cases t stall with ⟨hstall, e⟩ | ⟨-, -, e⟩ | ⟨-, -, e⟩
  · cases e.symm.trans h
    exact hheld hstall
  · cases e.symm.trans h
    rfl
  · cases e.symm.trans h

theorem step_keeps_pcTracksIFID {s t : State} (hinv : PcTracksIFID s) (hstep : step s = .next t) : PcTracksIFID t := by
  rcases (step_next hstep).2 with ⟨f, -, rfl⟩ | hcommit
  · exact hinv
  · obtain ⟨wbend, regs, memwb, dmem, pc, ifid, -, -, hif, rfl⟩ := runStages_ok hcommit
    refine ifStage_tracks hif fun hstall => ?_
    rw [flushAdjust_of_not_taken s (not_takenBranch_of_stalls hstall)]
    exact hinv

theorem pcTracksIFID_of_load {n : Nat} {image : List Word} {s : State} (h : State.load n image = some s) :
    PcTracksIFID s := by
  obtain ⟨-, -, rfl⟩ := load_eq_some h
  rfl

/-- Settles O45: both are 0 after reset, and a step writes both with one fetch or holds both. -/
theorem pcIsTheFetchedAddressPlusOne : Obligations.PcIsTheFetchedAddressPlusOne := by
  obtain ⟨hreset, hload⟩ := reset_and_load (P := PcTracksIFID) fun _ _ _ h => pcTracksIFID_of_load h
  exact ⟨hreset, hload, fun _ _ => step_keeps_pcTracksIFID⟩

end Sys2Proof.Proofs.Frames

/-! Proofs. What LW and SW do in program order to an address in bounds, and the round trip through one word of data
memory (R48, R95, R96). -/

namespace Sys2Proof.Proofs.LoadStore

open Sys2Proof Sys2Proof.Machine Sys2Proof.Laws

/-! ### In-bounds accesses -/

theorem memRead_of_lt {n : Nat} (m : Memory) {addr : Word} (h : addr.toNat < n) :
    memRead n m addr = .ok (m.read addr.toNat) := by
  rcases memRead_cases n m addr with ⟨-, hok⟩ | ⟨hout, -⟩
  · exact hok
  · exact absurd h (Nat.not_lt.2 hout)

theorem memWrite_of_lt {n : Nat} (m : Memory) {addr : Word} (h : addr.toNat < n) (v : Word) :
    memWrite n m addr v = .ok (m.write addr.toNat v) := by
  rcases memWrite_cases n m addr v with ⟨-, hok⟩ | ⟨hout, -⟩
  · exact hok
  · exact absurd h (Nat.not_lt.2 hout)

/-- The state in which an LW of the word `v` into register `b` completes (R95). -/
def afterLoad (s : State) (b : RegIdx) (v : Word) : State := (s.setRegs (s.regs.set b.toNat v b.isLt)).advance

/-- The state in which an SW of the word `v` to the word address `n` completes (R96). -/
def afterStore (s : State) (n : Nat) (v : Word) : State := (s.setDmem (s.dmem.write n v)).advance

/-- LW to an address in bounds completes: its bounds check passes, and a register field always names a register. -/
theorem exec_lw_of_lt {s : State} {a : RegIdx} {off : Field16} (b : RegIdx)
    (h : (effectiveAddress (s.reg a) off).toNat < s.memSize) :
    exec (.lw a b off) s = .next (afterLoad s b (s.dmem.read (effectiveAddress (s.reg a) off).toNat)) := by
  simp only [exec, execLw, memRead_of_lt s.dmem h, writeReg_field, Except.map, settle_ok, afterLoad]

/-- SW to an address in bounds completes: its bounds check passes. -/
theorem exec_sw_of_lt {s : State} {a : RegIdx} {off : Field16} (b : RegIdx)
    (h : (effectiveAddress (s.reg a) off).toNat < s.memSize) :
    exec (.sw a b off) s = .next (afterStore s (effectiveAddress (s.reg a) off).toNat (s.reg b)) := by
  simp only [exec, execSw, memWrite_of_lt s.dmem h, Except.map, settle_ok, afterStore]

/-! ### What the completed states hold -/

theorem afterLoad_reg (s : State) (b : RegIdx) (v : Word) (r : RegIdx) :
    (afterLoad s b v).reg r = if r = b then v else s.reg r :=
  calc (afterLoad s b v).reg r = if r.toNat = b.toNat then v else s.reg r := readReg_set s.regs b.toNat b.isLt v r
    _ = if r = b then v else s.reg r := by simp only [BitVec.toNat_inj]

theorem afterStore_dmem_read {s : State} (hwf : s.dmem.wf) (n : Nat) (v : Word) (k : Nat) :
    (afterStore s n v).dmem.read k = if k = n then v else s.dmem.read k :=
  read_write hwf n k v

@[simp] theorem afterStore_memSize (s : State) (n : Nat) (v : Word) : (afterStore s n v).memSize = s.memSize := rfl

/-- A store writes no register, so a base register names the same address after it (R50). -/
@[simp] theorem afterStore_reg (s : State) (n : Nat) (v : Word) (r : RegIdx) : (afterStore s n v).reg r = s.reg r := rfl

/-- Settles O17: the store keeps the base register and the size, so the load passes the same bounds check at the same
address and reads the word just written. -/
theorem storeThenLoadReturnsTheStoredWord : Obligations.StoreThenLoadReturnsTheStoredWord := by
  intro a b c off s hwf hbound
  have hstore := exec_sw_of_lt b hbound
  have hload := exec_lw_of_lt (s := afterStore s (effectiveAddress (s.reg a) off).toNat (s.reg b)) (a := a) (off := off)
    c (by simpa using hbound)
  refine ⟨_, _, hstore, hload, ?_⟩
  rw [afterLoad_reg, if_pos rfl, afterStore_reg, afterStore_dmem_read hwf, if_pos rfl]

end Sys2Proof.Proofs.LoadStore

/-! Proofs. The encoder and the decoder agree field by field (R62 to R65, R83), and the opcode field alone selects the
instruction (R67, R70). -/

namespace Sys2Proof.Proofs.Encoding

open Sys2Proof

/-! ### One field in a word -/

/-- The word that holds the bits `x` from bit `n` upward and zeros elsewhere: one operand of the `|` of R83. -/
def placed {m : Nat} (n : Nat) (x : BitVec m) : Word := x.setWidth 32 <<< n

section Placed

variable {m n : Nat} (x : BitVec m)

theorem placed_getLsbD (k : Nat) :
    (placed n x).getLsbD k = (decide (k < 32) && decide (n ≤ k) && x.getLsbD (k - n)) := by
  rw [placed, BitVec.getLsbD_shiftLeft, BitVec.getLsbD_setWidth]
  grind

theorem extractLsb'_placed (h : n + m ≤ 32) : (placed n x).extractLsb' n m = x := by
  ext k hk
  have hlt : n + k < 32 := by omega
  rw [BitVec.getElem_extractLsb', placed_getLsbD, Nat.add_sub_cancel_left]
  simp [hlt, hk]

/-- Bits wholly below or wholly above a placed field are 0. -/
theorem extractLsb'_placed_of_disjoint {start len : Nat} (h : start + len ≤ n ∨ n + m ≤ start) :
    (placed n x).extractLsb' start len = 0#len := by
  ext k hk
  rcases h with hbelow | habove
  · have hlow : ¬ n ≤ start + k := by omega
    simp [placed_getLsbD, hlow]
  · have hhigh : m ≤ start + k - n := by omega
    simp [placed_getLsbD, BitVec.getLsbD_of_ge x _ hhigh]

theorem toNat_placed (h : n + m ≤ 32) : (placed n x).toNat = x.toNat <<< n := by
  have hm : m ≤ 32 := by omega
  have hlt : x.toNat <<< n < 2 ^ 32 :=
    (Nat.shiftLeft_lt x.isLt).trans_le (Nat.pow_le_pow_right (by decide) (by omega))
  rw [placed, BitVec.toNat_shiftLeft, BitVec.toNat_setWidth_of_le hm, Nat.mod_eq_of_lt hlt]

end Placed

/-! ### An encoded word is its four fields, each at its place (R61, R83) -/

section ReadBack

variable (o : BitVec 3) (a b : RegIdx) (f : Field16)

theorem encodeFields_eq_placed :
    encodeFields o a b f = placed 22 o ||| placed 19 a ||| placed 16 b ||| placed 0 f := by
  simp [encodeFields, placed]

/-- What a slice of an encoded word holds is what the four placed fields hold there. -/
theorem extractLsb'_encodeFields (start len : Nat) :
    (encodeFields o a b f).extractLsb' start len =
      (placed 22 o).extractLsb' start len ||| (placed 19 a).extractLsb' start len |||
        (placed 16 b).extractLsb' start len ||| (placed 0 f).extractLsb' start len := by
  simp only [encodeFields_eq_placed, BitVec.extractLsb'_or]

theorem upperBits_encodeFields : (encodeFields o a b f).extractLsb' 25 7 = 0#7 := by
  simp [extractLsb'_encodeFields, extractLsb'_placed_of_disjoint]

@[simp] theorem opField_encodeFields : opField (encodeFields o a b f) = o := by
  simp [opField, extractLsb'_encodeFields, extractLsb'_placed, extractLsb'_placed_of_disjoint]

@[simp] theorem regA_encodeFields : regA (encodeFields o a b f) = a := by
  simp [regA, extractLsb'_encodeFields, extractLsb'_placed, extractLsb'_placed_of_disjoint]

@[simp] theorem regB_encodeFields : regB (encodeFields o a b f) = b := by
  simp [regB, extractLsb'_encodeFields, extractLsb'_placed, extractLsb'_placed_of_disjoint]

@[simp] theorem imm16_encodeFields : imm16 (encodeFields o a b f) = f := by
  simp [imm16, extractLsb'_encodeFields, extractLsb'_placed, extractLsb'_placed_of_disjoint]

theorem toNat_encodeFields :
    (encodeFields o a b f).toNat = o.toNat <<< 22 ||| a.toNat <<< 19 ||| b.toNat <<< 16 ||| f.toNat := by
  simp [encodeFields_eq_placed, toNat_placed]

end ReadBack

/-- Settles O2: the fields of an appended word are read back one by one; the three examples evaluate. -/
theorem encodeFieldsReadBack : Obligations.EncodeFieldsReadBack :=
  ⟨fun o a b f => ⟨toNat_encodeFields o a b f, upperBits_encodeFields o a b f, opField_encodeFields o a b f,
    regA_encodeFields o a b f, regB_encodeFields o a b f, imm16_encodeFields o a b f⟩, by decide⟩

/-! ### Decoding depends on the four fields alone (R67) -/

/-- The opcode map of R67 as a function of the four fields: what `decode` does once it has read them. -/
def decodeFields (o : BitVec 3) (a b : RegIdx) (f : Field16) : Instr :=
  match o.toNat with
  | 0 => .add a b f
  | 1 => .nor a b f
  | 2 => .lw a b f
  | 3 => .sw a b f
  | 4 => .beq a b f
  | 5 => .jalr
  | 6 => .halt
  | _ => .noop

theorem decode_eq_decodeFields (w : Word) : decode w = decodeFields (opField w) (regA w) (regB w) (imm16 w) := rfl

theorem decode_encodeFields (o : BitVec 3) (a b : RegIdx) (f : Field16) :
    decode (encodeFields o a b f) = decodeFields o a b f := by
  simp [decode_eq_decodeFields]

/-- Settles O1: each instruction is encoded with the opcode of its own row and with its operands in the fields that the
row reads back. -/
theorem decodeEncodeEveryInstruction : Obligations.DecodeEncodeEveryInstruction := by
  intro i
  cases i with
  | add a b d => exact decode_encodeFields 0#3 a b d
  | nor a b d => exact decode_encodeFields 1#3 a b d
  | lw a b off => exact decode_encodeFields 2#3 a b off
  | sw a b off => exact decode_encodeFields 3#3 a b off
  | beq a b off => exact decode_encodeFields 4#3 a b off
  | jalr => exact decode_encodeFields 5#3 0#3 0#3 0#16
  | halt => exact decode_encodeFields 6#3 0#3 0#3 0#16
  | noop => exact decode_encodeFields 7#3 0#3 0#3 0#16

/-! ### The mask of R67 -/

/-- The mask of R67 keeps the whole opcode field. -/
theorem opField_and_mask (w : Word) : opField (w &&& 0x01C00000#32) = opField w := by
  have hmask : (0x01C00000#32 : Word).extractLsb' 22 3 = BitVec.allOnes 3 := by decide
  rw [opField, BitVec.extractLsb'_and, hmask, BitVec.and_allOnes, opField]

/-- A word whose masked bits are the `match` value `o << 22` (an encoded opcode with nothing below it) decodes by the
row of `o`. -/
theorem decode_of_and_mask {w : Word} {o : BitVec 3} (h : w &&& 0x01C00000#32 = encodeFields o 0#3 0#3 0#16) :
    decode w = decodeFields o (regA w) (regB w) (imm16 w) := by
  have hop : opField w = o := by rw [← opField_and_mask, h, opField_encodeFields]
  rw [decode_eq_decodeFields, hop]

/-- Settles O3: the eight match values are the eight encoded opcodes. -/
theorem decodingFollowsTheOpcodeMap : Obligations.DecodingFollowsTheOpcodeMap := fun _ =>
  ⟨decode_of_and_mask (o := 0#3), decode_of_and_mask (o := 1#3), decode_of_and_mask (o := 2#3),
    decode_of_and_mask (o := 3#3), decode_of_and_mask (o := 4#3), decode_of_and_mask (o := 5#3),
    decode_of_and_mask (o := 6#3), decode_of_and_mask (o := 7#3)⟩

/-! ### The ignored bits 31 to 25 (R70) -/

/-- A field that ends at or below bit 24 is the same in two words that agree on bits 24 to 0. -/
theorem extractLsb'_congr_of_low25 {v w : Word} (h : v.extractLsb' 0 25 = w.extractLsb' 0 25) {start len : Nat}
    (hend : start + len ≤ 25) : v.extractLsb' start len = w.extractLsb' start len := by
  rw [← BitVec.extractLsb'_extractLsb'_of_le hend, h, BitVec.extractLsb'_extractLsb'_of_le hend]

/-- Settles O4: each of the four fields that `decode` reads lies in bits 24 to 0. -/
theorem decodingIgnoresBits31To25 : Obligations.DecodingIgnoresBits31To25 := by
  intro v w h
  have hop : opField v = opField w := extractLsb'_congr_of_low25 h (by decide)
  have hregA : regA v = regA w := extractLsb'_congr_of_low25 h (by decide)
  have hregB : regB v = regB w := extractLsb'_congr_of_low25 h (by decide)
  have himm : imm16 v = imm16 w := extractLsb'_congr_of_low25 h (by decide)
  rw [decode_eq_decodeFields, decode_eq_decodeFields, hop, hregA, hregB, himm]

/-! ### The table of words and the trailing field -/

/-- Settles O5: ten fixed words, each decoded by evaluation. -/
theorem writtenOutWordsDecode : Obligations.WrittenOutWordsDecode := by
  unfold Obligations.WrittenOutWordsDecode
  decide

theorem toInt_sext16 (v : Field16) : (sext16 v).toInt = v.toInt :=
  BitVec.toInt_signExtend_of_le (by decide)

/-- Settles O6: extension keeps the signed reading, and 16 bits hold no other range. -/
theorem signExtensionKeepsTheSignedValue : Obligations.SignExtensionKeepsTheSignedValue := by
  intro v
  have hlow : -2 ^ 15 ≤ v.toInt := v.le_toInt
  have hhigh : v.toInt < 2 ^ 15 := v.toInt_lt
  rw [toInt_sext16]
  exact ⟨rfl, by omega, by omega⟩

end Sys2Proof.Proofs.Encoding

/-! Proofs. ADD and NOR in program order with a destination that is no register (R74, R90, R91). -/

namespace Sys2Proof.Proofs.MissingRegister

open Sys2Proof Sys2Proof.Machine Sys2Proof.Laws

theorem writeReg_of_le (regs : Vector Word 8) {d : Nat} (h : 8 ≤ d) (v : Word) :
    writeReg regs d v = .error (.regIndexOutOfBounds d) := by
  rcases writeReg_cases regs d v with ⟨hlt, -⟩ | ⟨-, herror⟩
  · exact absurd hlt (Nat.not_lt.2 h)
  · exact herror

/-- A transition that begins with a write of a missing register ends in that fault, whatever it would do next. -/
theorem settle_writeReg_of_le (s : State) {d : Nat} (h : 8 ≤ d) (v : Word) (k : Vector Word 8 → State) :
    settle s ((writeReg s.regs d v).map k) = .next { s with fault := some (.regIndexOutOfBounds d) } := by
  rw [writeReg_of_le s.regs h, Except.map, settle_error, State.takeFault, State.setFault]

/-- Settles O9: both instructions begin with the write of their destination. -/
theorem addAndNorFaultOnAMissingRegister : Obligations.AddAndNorFaultOnAMissingRegister := by
  intro a b d s hd
  exact ⟨settle_writeReg_of_le s hd _ _, settle_writeReg_of_le s hd _ _⟩

end Sys2Proof.Proofs.MissingRegister

/-! Proofs. ADD and NOR in program order with a destination that is a register (R90, R91, R92, R11). -/

namespace Sys2Proof.Proofs.Arithmetic

open Sys2Proof Sys2Proof.Machine Sys2Proof.Laws Sys2Proof.Safety

theorem writeReg_of_lt (regs : Vector Word 8) {d : Nat} (h : d < 8) (v : Word) :
    writeReg regs d v = .ok (regs.set d v h) := by
  rcases writeReg_cases regs d v with ⟨_, hok⟩ | ⟨hle, -⟩
  · exact hok
  · exact absurd h (Nat.not_lt.2 hle)

/-- The state in which an ADD or NOR with the result `v` and the destination `d` completes (R90, R91). -/
def afterResult (s : State) {d : Nat} (h : d < 8) (v : Word) : State := (s.setRegs (s.regs.set d v h)).advance

section Completion

variable (s : State) (a b : RegIdx) {d : Field16} (h : d.toNat < 8)

/-- ADD with a destination that exists completes: its one check is that of the register write. -/
theorem exec_add_of_lt : exec (.add a b d) s = .next (afterResult s h (s.reg a + s.reg b)) := by
  simp only [exec, execAdd, add32, writeReg_of_lt s.regs h, Except.map, settle_ok, afterResult]

/-- NOR with a destination that exists completes: its one check is that of the register write. -/
theorem exec_nor_of_lt : exec (.nor a b d) s = .next (afterResult s h (~~~(s.reg a ||| s.reg b))) := by
  simp only [exec, execNor, nor32, writeReg_of_lt s.regs h, Except.map, settle_ok, afterResult]

end Completion

section Effect

variable (s : State) {d : Nat} (h : d < 8) (v : Word)

/-- Register 0 is a destination like any other (R11). -/
theorem afterResult_reg (r : RegIdx) : (afterResult s h v).reg r = if r.toNat = d then v else s.reg r :=
  readReg_set s.regs d h v r

theorem afterResult_pc : (afterResult s h v).pc = s.pc + 1#32 := rfl

/-- The frame of ADD and NOR: the register file and `pc` are all they change. -/
theorem afterResult_frame :
    DataMemoryKept s (afterResult s h v) ∧ InFlightKept s (afterResult s h v) ∧
      (afterResult s h v).wbend = s.wbend ∧ ControlKept s (afterResult s h v) := by
  simp [afterResult, DataMemoryKept, InFlightKept, ControlKept]

end Effect

/-- Settles O7: the completed state is `afterResult` of the sum. -/
theorem addWritesTheSum : Obligations.AddWritesTheSum := fun a b _ s hd =>
  ⟨_, exec_add_of_lt s a b hd, afterResult_reg s hd _, afterResult_pc s hd _, afterResult_frame s hd _⟩

/-- Settles O8: the completed state is `afterResult` of the NOR. -/
theorem norWritesTheNor : Obligations.NorWritesTheNor := fun a b _ s hd =>
  ⟨_, exec_nor_of_lt s a b hd, afterResult_reg s hd _, afterResult_pc s hd _, afterResult_frame s hd _⟩

end Sys2Proof.Proofs.Arithmetic

/-! Proofs. Effective addresses and branch targets as numbers: a signed displacement, modulo 2^32 (R97, R100, R131). -/

namespace Sys2Proof.Proofs.Addresses

open Sys2Proof Sys2Proof.Machine Sys2Proof.Proofs.Encoding

/-- The two readings of a word, as unsigned and as two's complement, differ by a multiple of 2^32 (R8). -/
theorem toNat_modEq_toInt (v : Word) : (v.toNat : Int) ≡ v.toInt [ZMOD 2 ^ 32] := by
  rw [BitVec.toInt_eq_toNat_bmod]
  exact Int.bmod_emod.symm

/-- The addition of an extended displacement, which the addressing mode and the branch target share (R97, R100). -/
theorem toNat_add32_sext16 (base : Word) (off : Field16) :
    ((add32 base (sext16 off)).toNat : Int) = ((base.toNat : Int) + off.toInt) % 2 ^ 32 := by
  have hext : ((sext16 off).toNat : Int) ≡ off.toInt [ZMOD 2 ^ 32] := toInt_sext16 off ▸ toNat_modEq_toInt (sext16 off)
  calc ((add32 base (sext16 off)).toNat : Int)
      = ((base.toNat : Int) + (sext16 off).toNat) % 2 ^ 32 := by simp [add32]
    _ = ((base.toNat : Int) + off.toInt) % 2 ^ 32 := hext.add_left _

/-- Settles O13: both are the same sum, of the base or of the address after the BEQ. -/
theorem addressesAreSignedSumsModulo : Obligations.AddressesAreSignedSumsModulo := fun base off =>
  ⟨toNat_add32_sext16 base off, toNat_add32_sext16 base off⟩

end Sys2Proof.Proofs.Addresses

/-! Proofs. The whole effect of LW and SW in program order: their results and frames in bounds, their fault out of bounds
(R45, R50, R95, R96). -/

namespace Sys2Proof.Proofs.LoadStoreEffects

open Sys2Proof Sys2Proof.Machine Sys2Proof.Laws Sys2Proof.Safety
open Sys2Proof.Proofs.LoadStore Sys2Proof.Proofs.Arithmetic

/-! ### In bounds -/

/-- An LW completes as an ADD or NOR does, with the loaded word for its result. -/
theorem afterLoad_eq_afterResult (s : State) (b : RegIdx) (v : Word) : afterLoad s b v = afterResult s b.isLt v := rfl

/-- The frame of LW: the register file and `pc` are all it changes. -/
theorem afterLoad_frame (s : State) (b : RegIdx) (v : Word) :
    DataMemoryKept s (afterLoad s b v) ∧ InFlightKept s (afterLoad s b v) ∧
      (afterLoad s b v).wbend = s.wbend ∧ ControlKept s (afterLoad s b v) :=
  afterLoad_eq_afterResult s b v ▸ afterResult_frame s b.isLt v

theorem afterLoad_pc (s : State) (b : RegIdx) (v : Word) : (afterLoad s b v).pc = s.pc + 1#32 :=
  afterResult_pc s b.isLt v

theorem afterStore_pc (s : State) (n : Nat) (v : Word) : (afterStore s n v).pc = s.pc + 1#32 := rfl

/-- The frame of SW: data memory and `pc` are all it changes (R50). -/
theorem afterStore_frame (s : State) (n : Nat) (v : Word) :
    RegistersKept s (afterStore s n v) ∧ InFlightKept s (afterStore s n v) ∧
      (afterStore s n v).wbend = s.wbend ∧ ControlKept s (afterStore s n v) := by
  refine ⟨afterStore_reg s n v, ?_⟩
  simp [afterStore, InFlightKept, ControlKept]

/-- Settles O10: the completed state is `afterLoad` of the word at the effective address. -/
theorem lwLoadsTheWord : Obligations.LwLoadsTheWord := fun _ b _ s hbound =>
  ⟨_, exec_lw_of_lt b hbound, afterLoad_reg s b _, afterLoad_pc s b _, afterLoad_frame s b _⟩

/-- Settles O11: the completed state is `afterStore` at the effective address; canonical form is what makes the write of
one word leave the reads of all others alone. -/
theorem swStoresTheWord : Obligations.SwStoresTheWord := fun _ b _ s hwf hbound =>
  ⟨_, exec_sw_of_lt b hbound, afterStore_dmem_read hwf _ _, afterStore_pc s _ _, afterStore_frame s _ _⟩

/-! ### Out of bounds -/

theorem memRead_of_le {n : Nat} (m : Memory) {addr : Word} (h : n ≤ addr.toNat) :
    memRead n m addr = .error (.dataAddressOutOfBounds addr) := by
  rcases memRead_cases n m addr with ⟨hin, -⟩ | ⟨-, herror⟩
  · exact absurd hin (Nat.not_lt.2 h)
  · exact herror

theorem memWrite_of_le {n : Nat} (m : Memory) {addr : Word} (h : n ≤ addr.toNat) (v : Word) :
    memWrite n m addr v = .error (.dataAddressOutOfBounds addr) := by
  rcases memWrite_cases n m addr v with ⟨hin, -⟩ | ⟨-, herror⟩
  · exact absurd hin (Nat.not_lt.2 h)
  · exact herror

section Fault

variable {s : State} {a : RegIdx} {off : Field16} (b : RegIdx)
  (h : s.memSize ≤ (effectiveAddress (s.reg a) off).toNat)
include h

/-- LW to an address out of bounds faults before it writes a register (R95). -/
theorem exec_lw_of_le :
    exec (.lw a b off) s = .next (s.takeFault (.dataAddressOutOfBounds (effectiveAddress (s.reg a) off))) := by
  simp only [exec, execLw, memRead_of_le s.dmem h, settle_error]

/-- SW to an address out of bounds faults in place of its write (R96). -/
theorem exec_sw_of_le :
    exec (.sw a b off) s = .next (s.takeFault (.dataAddressOutOfBounds (effectiveAddress (s.reg a) off))) := by
  simp only [exec, execSw, memWrite_of_le s.dmem h, Except.map, settle_error]

end Fault

/-- Settles O12: both fail the bounds check of the one effective address. -/
theorem lwAndSwFaultOutOfBounds : Obligations.LwAndSwFaultOutOfBounds := fun _ b _ _ hbound =>
  ⟨exec_lw_of_le b hbound, exec_sw_of_le b hbound⟩

end Sys2Proof.Proofs.LoadStoreEffects

/-! Proofs. The instructions that move `pc` and nothing else: BEQ, the reserved JALR and NOOP in program order (R100, R101,
R106). Each completes in `setPc` of an address, so the frame of all three is the one frame of `setPc`. -/

namespace Sys2Proof.Proofs.Branch

open Sys2Proof Sys2Proof.Machine Sys2Proof.Laws Sys2Proof.Safety

/-! ### Where the instructions complete -/

section Completion

variable (s : State)

theorem eq32_iff (v w : Word) : eq32 v w = true ↔ v = w := beq_iff_eq

/-- BEQ with equal registers goes to its target, which is not checked until it is fetched (R100). -/
theorem exec_beq_of_eq {a b : RegIdx} (off : Field16) (h : s.reg a = s.reg b) :
    exec (.beq a b off) s = .next (s.setPc (branchTarget (nextAddr s.pc) off)) := by
  simp only [exec, execBeq, (eq32_iff _ _).2 h, if_true, settle_ok]

/-- BEQ with different registers goes on with the next word (R100). -/
theorem exec_beq_of_ne {a b : RegIdx} (off : Field16) (h : s.reg a ≠ s.reg b) :
    exec (.beq a b off) s = .next s.advance := by
  simp only [exec, execBeq, eq32_iff, h, if_false, settle_ok]

/-- JALR is reserved: it links and jumps nowhere (R101). -/
theorem exec_jalr : exec .jalr s = .next s.advance := settle_ok s s.advance

theorem exec_noop : exec .noop s = .next s.advance := settle_ok s s.advance

end Completion

/-! ### What a move of `pc` changes -/

theorem advance_eq (s : State) : s.advance = { s with pc := s.pc + 1#32 } := rfl

/-- The frame of a move of `pc`: every other component is kept. -/
theorem setPc_frame (s : State) (v : Word) :
    RegistersKept s (s.setPc v) ∧ DataMemoryKept s (s.setPc v) ∧ InFlightKept s (s.setPc v) ∧
      (s.setPc v).wbend = s.wbend ∧ ControlKept s (s.setPc v) := by
  simp [RegistersKept, State.reg, DataMemoryKept, InFlightKept, ControlKept]

/-- Settles O14, by the outcome of the comparison: each direction completes in a move of `pc`. -/
theorem beqMovesPcOnly : Obligations.BeqMovesPcOnly := by
  intro a b off s
  by_cases h : s.reg a = s.reg b
  · exact ⟨_, exec_beq_of_eq s off h, (if_pos h).symm, setPc_frame s _⟩
  · exact ⟨_, exec_beq_of_ne s off h, (if_neg h).symm, setPc_frame s _⟩

/-- Settles O15: both are the sequential advance. -/
theorem jalrAndNoopOnlyAdvance : Obligations.JalrAndNoopOnlyAdvance := fun s =>
  advance_eq s ▸ ⟨exec_jalr s, exec_noop s⟩

end Sys2Proof.Proofs.Branch

/-! Proofs. HALT: its effect in program order, the three cycles in which it walks from ID/EX to WB/END, and the store
right behind it (R105, R115, R211). -/

namespace Sys2Proof.Proofs.Halt

open Sys2Proof Sys2Proof.Machine Sys2Proof.Laws Sys2Proof.Safety

/-- The halt predicate reads the word in WB/END alone (R115). -/
theorem halted_iff (s : State) : s.halted = true ↔ decode s.wbend.instr = .halt := isHalt_iff _

/-! ### Program order -/

theorem exec_halt (s : State) : exec .halt s = .next (s.setWbend { instr := haltW, writeData := 0#32 }) :=
  settle_ok s _

/-- The frame of a write of WB/END: every other component is kept. -/
theorem setWbend_frame (s : State) (v : WBEND) :
    (s.setWbend v).pc = s.pc ∧ RegistersKept s (s.setWbend v) ∧ DataMemoryKept s (s.setWbend v) ∧
      InFlightKept s (s.setWbend v) ∧ ControlKept s (s.setWbend v) := by
  simp [RegistersKept, State.reg, DataMemoryKept, InFlightKept, ControlKept]

/-- Settles O16: the effect is one write of WB/END, which then holds a HALT. -/
theorem haltHaltsAndWritesNothing : Obligations.HaltHaltsAndWritesNothing := fun s =>
  ⟨_, exec_halt s, (halted_iff _).2 decode_haltW, rfl, setWbend_frame s _⟩

/-! ### The walk of a word through the last three latches -/

/-- MEM hands the word on unchanged (R133). -/
theorem memStage_instr {t : State} {memwb : MEMWB} {dmem : Memory} (h : memStage t = .ok (memwb, dmem)) :
    memwb.instr = t.exmem.instr := by
  rcases memStage_cases t with ⟨-, -, e⟩ | ⟨-, -, e⟩ | ⟨-, -, e⟩ | ⟨-, -, e⟩ <;>
    cases e.symm.trans h <;> rfl

/-- WB hands the word on unchanged (R136). -/
theorem wbStage_instr {t : State} {wbend : WBEND} {regs : Vector Word 8} (h : wbStage t = .ok (wbend, regs)) :
    wbend.instr = t.memwb.instr := by
  rcases wbStage_cases t with ⟨-, e⟩ | ⟨d, -, ⟨_, e⟩ | ⟨-, e⟩⟩ <;> cases e.symm.trans h <;> rfl

/-- A committed cycle counts one and moves each word past ID/EX one latch on; the flush reaches what leaves ID/EX and
EX/MEM, never what leaves MEM/WB (R112, R114, R173). -/
theorem commits_moves {s t : State} (h : Commits s t) :
    t.cycles = s.cycles + 1 ∧ t.exmem.instr = (flushAdjust s).idex.instr ∧
      t.memwb.instr = (flushAdjust s).exmem.instr ∧ t.wbend.instr = s.memwb.instr := by
  obtain ⟨wbend, regs, memwb, dmem, pc, ifid, hwb, hmem, -, rfl⟩ := step_commits h.1 h.2
  exact ⟨rfl, rfl, memStage_instr hmem, (wbStage_instr hwb).trans (by rw [flushAdjust_memwb])⟩

/-- No flush comes from a latch that holds a HALT (R172). -/
theorem not_takenBranch_of_not_isBranch {s : State} (h : (decode s.exmem.instr).isBranch = false) :
    takenBranch s = false := by
  rw [takenBranch, h, Bool.false_and]

/-- A machine with a HALT in MEM/WB is halted by the cycle that commits (R115). -/
theorem status_halted_of_commits {s t : State} (h : Commits s t) (hhalt : decode s.memwb.instr = .halt) :
    t.status = .halted := by
  obtain ⟨-, -, -, hwbend⟩ := commits_moves h
  exact (status_halted_iff t).2 ⟨h.2, (halted_iff t).2 (hwbend ▸ hhalt)⟩

/-- Settles O39: the HALT is in EX/MEM after the first cycle, in MEM/WB after the second and in WB/END after the third,
and no BEQ can squash it on the way. -/
theorem haltInIdExHaltsInThreeCycles : Obligations.HaltInIdExHaltsInThreeCycles := by
  intro s t u v htaken hhalt hst htu huv
  obtain ⟨hct, hexmem, -, -⟩ := commits_moves hst
  obtain ⟨hcu, -, hmemwb, -⟩ := commits_moves htu
  obtain ⟨hcv, -, -, -⟩ := commits_moves huv
  rw [flushAdjust_of_not_taken s htaken] at hexmem
  have hhaltT : decode t.exmem.instr = .halt := hexmem ▸ hhalt
  have htakenT : takenBranch t = false := not_takenBranch_of_not_isBranch (by rw [hhaltT]; rfl)
  rw [flushAdjust_of_not_taken t htakenT] at hmemwb
  exact ⟨status_halted_of_commits huv (hmemwb ▸ hhaltT), by omega⟩

/-! ### The store right behind a HALT -/

/-- A running machine whose three stages that can fault raise nothing commits their outputs (R111, R113). -/
theorem commits_of_stages {s : State} {wbend : WBEND} {regs : Vector Word 8} {memwb : MEMWB} {dmem : Memory} {pc : Word}
    {ifid : IFID} (hrun : s.status = .running) (hwb : wbStage (flushAdjust s) = .ok (wbend, regs))
    (hmem : memStage (flushAdjust s) = .ok (memwb, dmem))
    (hif : ifStage (flushAdjust s) (stalls (flushAdjust s)) = .ok (pc, ifid)) :
    Commits s (commit s pc ifid (idStage (flushAdjust s) (stalls (flushAdjust s))) (exStage (flushAdjust s))
      memwb wbend regs dmem) := by
  refine ⟨?_, rfl⟩
  rw [step, whileRunning_of_running hrun, cycle, runStages, hwb, hmem]
  simp only [hif, settle_ok]

/-- WB leaves the registers alone for an instruction without a destination (R135). -/
theorem wbStage_of_dest_none {t : State} (h : (decode t.memwb.instr).dest = none) :
    wbStage t = .ok ({ instr := t.memwb.instr, writeData := t.memwb.writeData }, t.regs) := by
  rcases wbStage_cases t with ⟨-, e⟩ | ⟨d, hd, -⟩
  · exact e
  · cases h.symm.trans hd

/-- MEM does an in-bounds store (R133). -/
theorem memStage_of_memWrite {t : State} (hstore : (decode t.exmem.instr).memWrite = true)
    (hbound : t.exmem.aluResult.toNat < t.memSize) :
    memStage t = .ok ({ instr := t.exmem.instr, writeData := t.exmem.aluResult },
      t.dmem.write t.exmem.aluResult.toNat t.exmem.readRegB) := by
  rcases memStage_cases t with ⟨hload, -, -⟩ | ⟨-, -, e⟩ | ⟨-, hother, -⟩ | ⟨-, hout, -⟩
  · cases (Frames.memWrite_eq_false_of_memRead hload).symm.trans hstore
  · exact e
  · cases hother.symm.trans hstore
  · exact absurd hbound (Nat.not_lt.2 hout)

/-- IF raises nothing at a `pc` in bounds, stalled or not (R125, R126). -/
theorem ifStage_of_lt {t : State} (h : t.pc.toNat < t.memSize) (stall : Bool) :
    ∃ pc ifid, ifStage t stall = .ok (pc, ifid) := by
  rcases ifStage_cases t stall with ⟨-, e⟩ | ⟨-, -, e⟩ | ⟨-, hout, -⟩
  · exact ⟨_, _, e⟩
  · exact ⟨_, _, e⟩
  · exact absurd h (Nat.not_lt.2 hout)

/-- Settles O40: the three stages act at once, so MEM does the store in the cycle in which WB hands on the HALT. -/
theorem storeBehindHaltStillStores : Obligations.StoreBehindHaltStillStores := by
  intro s a b off hrun hwf hhalt hsw hbound hpc
  have hflush : flushAdjust s = s :=
    flushAdjust_of_not_taken s (not_takenBranch_of_not_isBranch (by rw [hsw]; rfl))
  have hwb := wbStage_of_dest_none (t := s) (by rw [hhalt]; rfl)
  have hmem := memStage_of_memWrite (t := s) (by rw [hsw]; rfl) hbound
  obtain ⟨pc, ifid, hif⟩ := ifStage_of_lt hpc (stalls s)
  rw [← hflush] at hwb hmem hif
  have hcommits := commits_of_stages hrun hwb hmem hif
  simp only [hflush] at hcommits
  exact ⟨_, hcommits.1, status_halted_of_commits hcommits hhalt, fun _ => rfl, fun n => read_write hwf _ n _⟩

end Sys2Proof.Proofs.Halt

/-! Proofs. The cycle driver: which statuses have a next state, and what a committed and a faulting cycle do to `cycles`
and `fault` (R114, R115, R116, R117, R184). -/

namespace Sys2Proof.Proofs.CycleDriver

open Sys2Proof Sys2Proof.Machine Sys2Proof.Safety Sys2Proof.Laws

/-! ### The status decides whether there is a next state -/

theorem step_of_running {s : State} (h : s.status = .running) : ∃ t, step s = .next t := by
  rw [step, whileRunning_of_running h, cycle]
  rcases settle_cases s (runStages s (flushAdjust s)) with ⟨t, -, hnext⟩ | ⟨f, -, hnext⟩
  · exact ⟨t, hnext⟩
  · exact ⟨s.takeFault f, hnext⟩

theorem step_of_halted {s : State} (h : s.status = .halted) : step s = .fault .halted := by
  obtain ⟨hfault, hhalted⟩ := (status_halted_iff s).1 h
  simp [step, whileRunning, hfault, hhalted]

theorem step_of_fault {s : State} {f : MachineFault} (h : s.fault = some f) : step s = .fault (.faulted f) := by
  simp [step, whileRunning, h]

/-- Settles O21, status by status. -/
theorem onlyStoppedMachinesHaveNoNextState : Obligations.OnlyStoppedMachinesHaveNoNextState := fun _ =>
  ⟨step_of_running, step_of_halted, fun _ => step_of_fault⟩

/-! ### The two ways a cycle ends -/

/-- The commit counts the cycle and clears `fault` (R113, R114). -/
theorem runStages_ok_cycles {s t u : State} (h : runStages s t = .ok u) : u.fault = none ∧ u.cycles = s.cycles + 1 := by
  obtain ⟨wbend, regs, memwb, dmem, pc, ifid, -, -, -, rfl⟩ := runStages_ok h
  exact ⟨rfl, rfl⟩

/-- A step that ends with a fault recorded took that fault on the state it began with (R117, R184). -/
theorem eq_takeFault_of_step {s t : State} {f : MachineFault} (h : step s = .next t) (hf : t.fault = some f) :
    t = s.takeFault f := by
  rcases (step_next h).2 with ⟨g, -, rfl⟩ | hcommit
  · rw [Option.some.inj hf]
  · cases (runStages_ok_cycles hcommit).1.symm.trans hf

/-- Settles O24: a step takes a fault, which leaves `cycles`, or commits, which counts. -/
theorem everyCommittedCycleCountsOne : Obligations.EveryCommittedCycleCountsOne := by
  intro s t hstep
  obtain ⟨hrunning, ⟨f, -, rfl⟩ | hcommit⟩ := step_next hstep
  · exact ⟨hrunning, by simp, fun _ => rfl⟩
  · obtain ⟨hnone, hcycles⟩ := runStages_ok_cycles hcommit
    exact ⟨hrunning, fun _ => hcycles, fun hsome => absurd hnone hsome⟩

/-- Settles O25: the faulting step took its fault on the state before, and a recorded fault stops the machine. -/
theorem faultingCycleChangesOnlyTheFault : Obligations.FaultingCycleChangesOnlyTheFault := fun _ _ _ hstep hfault =>
  ⟨eq_takeFault_of_step hstep hfault, step_of_fault hfault⟩

end Sys2Proof.Proofs.CycleDriver

/-! Proofs. A committed cycle, latch by latch: what the next state holds of the stages' outputs (R111, R113), that any
committed cycle establishes the hazard invariant, and what the flush, the stall and the fetch do to the front end. -/

namespace Sys2Proof.Proofs.CommittedCycle

open Sys2Proof Sys2Proof.Machine Sys2Proof.Safety Sys2Proof.Laws Sys2Proof.Proofs.Storage

/-! ### The next state is the stages' outputs -/

theorem commits_stages {s t : State} (h : Commits s t) :
    wbStage (flushAdjust s) = .ok (t.wbend, t.regs) ∧ memStage (flushAdjust s) = .ok (t.memwb, t.dmem) ∧
      ifStage (flushAdjust s) (stalls (flushAdjust s)) = .ok (t.pc, t.ifid) := by
  obtain ⟨wbend, regs, memwb, dmem, pc, ifid, hwb, hmem, hif, rfl⟩ := step_commits h.1 h.2
  exact ⟨hwb, hmem, hif⟩

theorem commits_idex {s t : State} (h : Commits s t) :
    t.idex = idStage (flushAdjust s) (stalls (flushAdjust s)) := by
  obtain ⟨wbend, regs, memwb, dmem, pc, ifid, -, -, -, rfl⟩ := step_commits h.1 h.2
  rfl

theorem commits_exmem {s t : State} (h : Commits s t) : t.exmem = exStage (flushAdjust s) := by
  obtain ⟨wbend, regs, memwb, dmem, pc, ifid, -, -, -, rfl⟩ := step_commits h.1 h.2
  rfl

theorem commits_storage {s t : State} (h : Commits s t) : t.memSize = s.memSize ∧ t.imem = s.imem := by
  obtain ⟨wbend, regs, memwb, dmem, pc, ifid, -, -, -, rfl⟩ := step_commits h.1 h.2
  exact ⟨rfl, rfl⟩

/-- Only a running machine commits a cycle (R116). -/
theorem running_of_step {s t : State} (h : step s = .next t) : s.running = true :=
  (running_iff s).2 ((status_running_iff s).1 (step_next h).1)

/-! ### The write of WB is the value in WB/END (R135, R136) -/

theorem forwardsTo_iff (w : Word) (r : RegIdx) : forwardsTo w r = true ↔ (decode w).dest = some r.toNat := beq_iff_eq

theorem wbStage_readReg {t : State} {wbend : WBEND} {regs : Vector Word 8} (h : wbStage t = .ok (wbend, regs))
    (r : RegIdx) : readReg regs r = if forwardsTo wbend.instr r then wbend.writeData else readReg t.regs r := by
  rcases wbStage_cases t with ⟨hdest, e⟩ | ⟨d, hdest, ⟨hd, e⟩ | ⟨-, e⟩⟩
  · cases e.symm.trans h
    simp [forwardsTo_iff, hdest]
  · cases e.symm.trans h
    simp only [forwardsTo_iff, hdest, Option.some_inj, readReg_set, eq_comm (a := d)]
  · cases e.symm.trans h

theorem commits_reg {s t : State} (h : Commits s t) (r : RegIdx) :
    t.reg r = if forwardsTo t.wbend.instr r then t.wbend.writeData else s.reg r := by
  obtain ⟨hwb, -, -⟩ := commits_stages h
  have hread := wbStage_readReg hwb r
  rw [flushAdjust_regs] at hread
  exact hread

/-! ### Every committed cycle establishes the hazard invariant, whatever state it ran on -/

/-- ID decodes the word that it hands on, and a bubble's offset is 0 as is the no-op word's field (R127, R128). -/
theorem idStage_offset (t : State) (stall : Bool) :
    (idStage t stall).offset = sext16 (imm16 (idStage t stall).instr) := by
  cases stall with
  | false => rfl
  | true => simp [idStage, bubbleIDEX]

/-- The instruction that ID lets pass does not read the destination of an LW in front of it (R151, R157). -/
theorem idStage_readsReg {t : State} (hload : (decode t.idex.instr).memRead = true) :
    readsReg (idStage t (stalls t)).instr (regB t.idex.instr) = false := by
  cases hstall : stalls t with
  | true => exact readsReg_noopW _
  | false =>
    rw [stalls, loadUseStall, hload, Bool.true_and] at hstall
    exact hstall

/-- Where the word that ID hands on reads a register, ID read it (R127). -/
theorem idStage_snapshots (t : State) (stall : Bool) :
    ((decode (idStage t stall).instr).readsA = true →
      (idStage t stall).readRegA = readReg t.regs (regA (idStage t stall).instr)) ∧
    ((decode (idStage t stall).instr).readsB = true →
      (idStage t stall).readRegB = readReg t.regs (regB (idStage t stall).instr)) := by
  cases stall with
  | false => exact ⟨fun _ => rfl, fun _ => rfl⟩
  | true => simp [idStage, bubbleIDEX, Instr.readsA, Instr.readsB]

/-- A snapshot that ID took is stale after the cycle only where WB wrote the register, and WB/END then supplies it
(R137). -/
theorem snapshotsFresh_of_commits {s t : State} (h : Commits s t) : SnapshotsFresh t := by
  have hkept : ∀ r : RegIdx, NoSourceFor t r → readReg (flushAdjust s).regs r = t.reg r := by
    rintro r ⟨-, -, hwbend⟩
    rw [commits_reg h, hwbend, flushAdjust_regs]
    rfl
  obtain ⟨hA, hB⟩ := idStage_snapshots (flushAdjust s) (stalls (flushAdjust s))
  rw [← commits_idex h] at hA hB
  exact ⟨fun hreads hsource => (hA hreads).trans (hkept _ hsource),
    fun hreads hsource => (hB hreads).trans (hkept _ hsource)⟩

theorem hazardInv_of_commits {s t : State} (h : Commits s t) : HazardInv t := by
  have eqOnlyForBeq : EqOnlyForBeq t := by
    intro heq
    rw [commits_exmem h] at heq ⊢
    exact (Bool.and_eq_true_iff.1 heq).1
  have offsetDecoded : OffsetDecoded t := by
    rw [OffsetDecoded, commits_idex h]
    exact idStage_offset _ _
  have noLoadUse : NoLoadUseBehindLoad t := by
    intro hload
    rw [commits_exmem h] at hload ⊢
    rw [commits_idex h]
    exact idStage_readsReg hload
  have retired : RetiredValueWritten t := by
    intro r hsource
    rw [commits_reg h, if_pos hsource]
  exact ⟨eqOnlyForBeq, offsetDecoded, noLoadUse, retired, snapshotsFresh_of_commits h⟩

/-! ### The front end: a flush, a stall, or a fetch at `pc` -/

/-- What an unstalled cycle that commits fetched (R125). -/
theorem commits_fetch {s t : State} (h : Commits s t) (hstall : stalls (flushAdjust s) = false) :
    (fetchAddress s).toNat < s.memSize ∧ t.pc = nextAddr (fetchAddress s) ∧
      t.ifid = { instr := s.imem.read (fetchAddress s).toNat, pcPlus1 := nextAddr (fetchAddress s) } := by
  obtain ⟨-, -, hif⟩ := commits_stages h
  rcases ifStage_cases (flushAdjust s) (stalls (flushAdjust s)) with ⟨htrue, -⟩ | ⟨-, hbound, e⟩ | ⟨-, -, e⟩
  · cases hstall.symm.trans htrue
  · obtain ⟨hpc, hifid⟩ := Prod.mk.inj (Except.ok.inj (hif.symm.trans e))
    simp only [flushAdjust_memSize, flushAdjust_imem] at hbound hifid
    exact ⟨hbound, hpc, hifid⟩
  · cases e.symm.trans hif

/-- A stalled cycle holds `pc` and IF/ID and puts a bubble in ID/EX (R126, R128). -/
theorem commits_stalled {s t : State} (h : Commits s t) (htaken : takenBranch s = false)
    (hstall : loadUseStall s.ifid s.idex = true) : t.pc = s.pc ∧ t.ifid = s.ifid ∧ t.idex = bubbleIDEX := by
  have hstalls : stalls s = true := hstall
  have hidex := commits_idex h
  obtain ⟨-, -, hif⟩ := commits_stages h
  rw [flushAdjust_of_not_taken s htaken, hstalls] at hidex hif
  obtain ⟨hpc, hifid⟩ := Prod.mk.inj (Except.ok.inj hif)
  exact ⟨hpc.symm, hifid.symm, hidex⟩

/-- A cycle that neither flushes nor stalls fetches at `pc` and moves the word in IF/ID into ID/EX (R125, R127). -/
theorem commits_flows {s t : State} (h : Commits s t) (htaken : takenBranch s = false)
    (hstall : loadUseStall s.ifid s.idex = false) :
    s.pc.toNat < s.memSize ∧ t.pc = nextAddr s.pc ∧
      t.ifid = { instr := s.imem.read s.pc.toNat, pcPlus1 := nextAddr s.pc } ∧
      t.idex.instr = s.ifid.instr ∧ t.idex.pcPlus1 = s.ifid.pcPlus1 := by
  have hstalls : stalls s = false := hstall
  have hflush := flushAdjust_of_not_taken s htaken
  have hidex := commits_idex h
  obtain ⟨hbound, hpc, hifid⟩ := commits_fetch h (by rwa [hflush])
  rw [hflush, hstalls] at hidex
  rw [fetchAddress, hflush] at hbound hpc hifid
  exact ⟨hbound, hpc, hifid, by rw [hidex]; rfl, by rw [hidex]; rfl⟩

/-- A cycle that flushes fetches at the target and puts no-ops in ID/EX and EX/MEM (R173). -/
theorem commits_flushed {s t : State} (h : Commits s t) (htaken : takenBranch s = true) :
    s.exmem.branchTarget.toNat < s.memSize ∧ t.pc = nextAddr s.exmem.branchTarget ∧
      t.ifid = { instr := s.imem.read s.exmem.branchTarget.toNat, pcPlus1 := nextAddr s.exmem.branchTarget } ∧
      t.idex.instr = noopW ∧ t.exmem.instr = noopW := by
  have hstalls : stalls (flushAdjust s) = false := by simp [stalls, flushAdjust_idex, htaken]
  have haddress : fetchAddress s = s.exmem.branchTarget := by rw [fetchAddress, flushAdjust_pc, if_pos htaken]
  obtain ⟨hbound, hpc, hifid⟩ := commits_fetch h hstalls
  rw [haddress] at hbound hpc hifid
  refine ⟨hbound, hpc, hifid, ?_, ?_⟩
  · rw [commits_idex h, hstalls, idStage, flushAdjust_ifid, if_pos htaken]
    rfl
  · rw [commits_exmem h, exStage, flushAdjust_idex, if_pos htaken]
    rfl

/-- A taken BEQ in EX/MEM is one whose `eq` says so, and only a BEQ sets `eq` (R131, R172). -/
theorem commits_takenBranch {s t : State} (h : Commits s t) (htaken : takenBranch s = false) :
    takenBranch t = branchOutcome (decode s.idex.instr) (operandA s) (operandB s) := by
  rw [takenBranch, commits_exmem h, flushAdjust_of_not_taken s htaken]
  simp [exStage, branchOutcome]

theorem not_takenBranch_of_noop {s : State} (h : s.exmem.instr = noopW) : takenBranch s = false := by
  simp [takenBranch, h, Instr.isBranch]

end Sys2Proof.Proofs.CommittedCycle

/-! Proofs. What a program can tell of a state but for where it goes on, how the instructions in flight are completed in
it, and the effect of one word of the program order (R119): each depends on that view alone, and the effect of a word is
the completion of the EX/MEM latch that program order would give it. -/

namespace Sys2Proof.Proofs.ProgramOrder

open Sys2Proof Sys2Proof.Machine Sys2Proof.Laws Sys2Proof.Proofs.DontCare

/-! ### The program's view without `pc` -/

/-- The program's view of a state, without where it goes on. -/
def archView (s : State) : ProgramView := { programView s with pc := none }

@[simp] theorem archView_setPc (s : State) (v : Word) : archView (s.setPc v) = archView s := rfl

theorem archView_setRegs (s : State) (v : Vector Word 8) : archView (s.setRegs v) = { archView s with regs := v } := rfl

theorem archView_setDmem (s : State) (v : Memory) : archView (s.setDmem v) = { archView s with dmem := v } := rfl

theorem archView_takeFault (s : State) (f : MachineFault) :
    archView (s.takeFault f) = { archView s with fault := some f } := rfl

theorem halted_setWbend_haltW (s : State) : (s.setWbend { instr := haltW, writeData := 0#32 }).halted = true :=
  (Halt.halted_iff _).2 decode_haltW

theorem archView_setWbend_haltW (s : State) :
    archView (s.setWbend { instr := haltW, writeData := 0#32 }) = { archView s with halted := true } := by
  rw [archView, programView, halted_setWbend_haltW]
  rfl

section Components

variable {a b : State} (h : archView a = archView b)
include h

theorem memSize_congr : a.memSize = b.memSize := congrArg ProgramView.memSize h

theorem imem_congr : a.imem = b.imem := congrArg ProgramView.imem h

theorem dmem_congr : a.dmem = b.dmem := congrArg ProgramView.dmem h

theorem regs_congr : a.regs = b.regs := congrArg ProgramView.regs h

theorem halted_congr : a.halted = b.halted := congrArg ProgramView.halted h

theorem fault_congr : a.fault = b.fault := congrArg ProgramView.fault h

theorem running_congr : a.running = b.running := by rw [State.running, State.running, halted_congr h, fault_congr h]

theorem reg_congr (r : RegIdx) : a.reg r = b.reg r := by rw [State.reg, State.reg, regs_congr h]

theorem branchesIn_congr (w : Word) : branchesIn w a = branchesIn w b := by
  rw [branchesIn, branchesIn, reg_congr h, reg_congr h]

end Components

/-- The whole view adds where a running state goes on, and of a stopped one nothing. -/
theorem programView_eq_iff {a b : State} :
    programView a = programView b ↔ archView a = archView b ∧ (a.running = true → a.pc = b.pc) := by
  constructor
  · intro h
    have harch : archView a = archView b := congrArg (fun v : ProgramView => { v with pc := none }) h
    refine ⟨harch, fun hrun => ?_⟩
    have hpc : (programView a).pc = (programView b).pc := congrArg ProgramView.pc h
    simpa [programView, hrun, ← running_congr harch] using hpc
  · rintro ⟨harch, hpc⟩
    have hpcs : (programView a).pc = (programView b).pc := by
      cases hrun : a.running with
      | false => simp [programView, hrun, ← running_congr harch]
      | true => simp [programView, hrun, ← running_congr harch, hpc hrun]
    exact congrArg₂ (fun (v : ProgramView) p => { v with pc := p }) harch hpcs

theorem programView_of_stopped {a b : State} (h : archView a = archView b) (hstop : a.running = false) :
    programView a = programView b :=
  programView_eq_iff.2 ⟨h, fun hrun => absurd hrun (by simp [hstop])⟩

/-! ### Completing the instruction in MEM/WB -/

theorem isBranch_eq_false_of_dest {i : Instr} {d : Nat} (h : i.dest = some d) : i.isBranch = false := by
  cases i with
  | beq => cases h
  | _ => rfl

theorem isHalt_eq_false_of_dest {i : Instr} {d : Nat} (h : i.dest = some d) : i.isHalt = false := by
  cases i with
  | halt => cases h
  | _ => rfl

section CompleteMEMWB

variable {m : MEMWB} (s : State)

theorem completeMEMWB_of_halt (h : (decode m.instr).isHalt = true) :
    completeMEMWB m s = s.setWbend { instr := haltW, writeData := 0#32 } := by
  rw [completeMEMWB, if_pos h]
  rfl

/-- An instruction with no destination, other than HALT, has nothing left to do in WB (R135). -/
theorem completeMEMWB_of_dest_none (hhalt : (decode m.instr).isHalt = false) (h : (decode m.instr).dest = none) :
    completeMEMWB m s = s := by
  simp [completeMEMWB, hhalt, h]

theorem completeMEMWB_of_dest {d : Nat} (h : (decode m.instr).dest = some d) :
    completeMEMWB m s = outcomeState s (settle s ((writeReg s.regs d m.writeData).map s.setRegs)) := by
  simp [completeMEMWB, isHalt_eq_false_of_dest h, h]

end CompleteMEMWB

/-- The outcome of a write of a register, as a program sees it, depends on what a program sees. -/
theorem archView_writeReg_congr {a b : State} (h : archView a = archView b) (d : Nat) (v : Word) :
    archView (outcomeState a (settle a ((writeReg a.regs d v).map a.setRegs))) =
      archView (outcomeState b (settle b ((writeReg b.regs d v).map b.setRegs))) := by
  rw [← regs_congr h]
  rcases writeReg_cases a.regs d v with ⟨_, e⟩ | ⟨_, e⟩
  · simp [e, Except.map, outcomeState, archView_setRegs, h]
  · simp [e, Except.map, outcomeState, archView_takeFault, h]

theorem archView_completeMEMWB_congr {a b : State} {m n : MEMWB} (h : archView a = archView b)
    (hinstr : m.instr = n.instr) (hdata : (decode m.instr).regWrite = true → m.writeData = n.writeData) :
    archView (completeMEMWB m a) = archView (completeMEMWB n b) := by
  cases hhalt : (decode m.instr).isHalt with
  | true =>
    rw [completeMEMWB_of_halt a hhalt, completeMEMWB_of_halt b (hinstr ▸ hhalt), archView_setWbend_haltW,
      archView_setWbend_haltW, h]
  | false =>
    cases hdest : (decode m.instr).dest with
    | none =>
      rwa [completeMEMWB_of_dest_none a hhalt hdest, completeMEMWB_of_dest_none b (hinstr ▸ hhalt) (hinstr ▸ hdest)]
    | some d =>
      have hwrite : (decode m.instr).regWrite = true := by rw [Instr.regWrite, hdest, Option.isSome_some]
      rw [completeMEMWB_of_dest a hdest, completeMEMWB_of_dest b (hinstr ▸ hdest), hdata hwrite]
      exact archView_writeReg_congr h d n.writeData

/-! ### Completing the instruction in EX/MEM -/

section CompleteEXMEM

variable {e : EXMEM} {s : State}

theorem completeEXMEM_of_load_lt (h : (decode e.instr).memRead = true) (hbound : e.aluResult.toNat < s.memSize) :
    completeEXMEM e s = completeMEMWB { instr := e.instr, writeData := s.dmem.read e.aluResult.toNat } s := by
  rw [completeEXMEM, if_pos h, LoadStore.memRead_of_lt s.dmem hbound]

theorem completeEXMEM_of_load_le (h : (decode e.instr).memRead = true) (hbound : s.memSize ≤ e.aluResult.toNat) :
    completeEXMEM e s = s.takeFault (.dataAddressOutOfBounds e.aluResult) := by
  rw [completeEXMEM, if_pos h, LoadStoreEffects.memRead_of_le s.dmem hbound]

theorem completeEXMEM_of_store_lt (h : (decode e.instr).memWrite = true) (hbound : e.aluResult.toNat < s.memSize) :
    completeEXMEM e s = s.setDmem (s.dmem.write e.aluResult.toNat e.readRegB) := by
  have hload : ¬ (decode e.instr).memRead = true := fun hload => by
    cases (Frames.memWrite_eq_false_of_memRead hload).symm.trans h
  rw [completeEXMEM, if_neg hload, if_pos h, LoadStore.memWrite_of_lt s.dmem hbound]
  rfl

theorem completeEXMEM_of_store_le (h : (decode e.instr).memWrite = true) (hbound : s.memSize ≤ e.aluResult.toNat) :
    completeEXMEM e s = s.takeFault (.dataAddressOutOfBounds e.aluResult) := by
  have hload : ¬ (decode e.instr).memRead = true := fun hload => by
    cases (Frames.memWrite_eq_false_of_memRead hload).symm.trans h
  rw [completeEXMEM, if_neg hload, if_pos h, LoadStoreEffects.memWrite_of_le s.dmem hbound]
  rfl

variable (s) in
theorem completeEXMEM_of_other (hload : (decode e.instr).memRead = false) (hstore : (decode e.instr).memWrite = false) :
    completeEXMEM e s = completeMEMWB { instr := e.instr, writeData := e.aluResult } s := by
  simp [completeEXMEM, hload, hstore]

end CompleteEXMEM

/-- What completing EX/MEM gives depends on the meaningful fields of the latch alone (R32). -/
theorem archView_completeEXMEM_congr {a b : State} {e f : EXMEM} (h : archView a = archView b)
    (hinstr : e.instr = f.instr) (halu : aluResultMeaningful (decode e.instr) = true → e.aluResult = f.aluResult)
    (hstore : (decode e.instr).memWrite = true → e.readRegB = f.readRegB) :
    archView (completeEXMEM e a) = archView (completeEXMEM f b) := by
  have hsize := memSize_congr h
  have hdmem := dmem_congr h
  cases hread : (decode e.instr).memRead with
  | true =>
    have hresult := halu (aluResultMeaningful_of_memRead hread)
    rcases lt_or_ge e.aluResult.toNat a.memSize with hbound | hbound
    · rw [completeEXMEM_of_load_lt hread hbound,
        completeEXMEM_of_load_lt (hinstr ▸ hread) (by rwa [← hresult, ← hsize])]
      exact archView_completeMEMWB_congr h hinstr fun _ => by rw [hdmem, hresult]
    · rw [completeEXMEM_of_load_le hread hbound,
        completeEXMEM_of_load_le (hinstr ▸ hread) (by rwa [← hresult, ← hsize]),
        archView_takeFault, archView_takeFault, h, hresult]
  | false =>
    cases hwrite : (decode e.instr).memWrite with
    | true =>
      have hresult := halu (aluResultMeaningful_of_memWrite hwrite)
      rcases lt_or_ge e.aluResult.toNat a.memSize with hbound | hbound
      · rw [completeEXMEM_of_store_lt hwrite hbound,
          completeEXMEM_of_store_lt (hinstr ▸ hwrite) (by rwa [← hresult, ← hsize]),
          archView_setDmem, archView_setDmem, h, hdmem, hresult, hstore hwrite]
      · rw [completeEXMEM_of_store_le hwrite hbound,
          completeEXMEM_of_store_le (hinstr ▸ hwrite) (by rwa [← hresult, ← hsize]),
          archView_takeFault, archView_takeFault, h, hresult]
    | false =>
      rw [completeEXMEM_of_other a hread hwrite, completeEXMEM_of_other b (hinstr ▸ hread) (hinstr ▸ hwrite)]
      exact archView_completeMEMWB_congr h hinstr fun hreg => halu (aluResultMeaningful_of_regWrite hreg)

/-! ### The effect of one word -/

/-- The state after the word `w` in program order. -/
def effect (w : Word) (s : State) : State := outcomeState s (exec (decode w) s)

/-- Every instruction's effect is a settled transition, so each has a next state (R117). -/
theorem exec_eq_settle (i : Instr) (s : State) : ∃ r, exec i s = settle s r := by
  cases i with
  | add | nor | lw | sw => exact ⟨_, rfl⟩
  | beq | jalr | halt | noop => exact ⟨.ok _, rfl⟩

theorem exec_decode (w : Word) (s : State) : exec (decode w) s = .next (effect w s) := by
  obtain ⟨r, hr⟩ := exec_eq_settle (decode w) s
  rw [effect, hr]
  cases r <;> rfl

/-- The EX/MEM latch that the word `w` has in program order: its operands are the registers of `s` and its own address
is the `pc` of `s`. -/
def resolved (w : Word) (s : State) : EXMEM :=
  { instr := w
    branchTarget := branchTarget (nextAddr s.pc) (imm16 w)
    eq := branchesIn w s
    aluResult := alu (decode w).aluSel (s.reg (regA w)) (s.reg (regB w)) (sext16 (imm16 w))
      (branchTarget (nextAddr s.pc) (imm16 w))
    readRegB := s.reg (regB w) }

/-- Where program order goes on after the word `w`, unless it stops there (R90 to R106). -/
def nextPc (w : Word) (s : State) : Word :=
  if branchesIn w s then branchTarget (nextAddr s.pc) (imm16 w) else nextAddr s.pc

theorem branchesIn_of_not_isBranch {w : Word} (s : State) (h : (decode w).isBranch = false) :
    branchesIn w s = false := by
  rw [branchesIn, branchOutcome, h, Bool.false_and]

theorem nextPc_of_not_isBranch {w : Word} (s : State) (h : (decode w).isBranch = false) :
    nextPc w s = nextAddr s.pc := by
  rw [nextPc, branchesIn_of_not_isBranch s h]
  rfl

/-- An LW or SW has its effective address for its ALU result (R97, R130). -/
theorem resolved_aluResult_of_addAOff {w : Word} (s : State) (h : (decode w).aluSel = .addAOff) :
    (resolved w s).aluResult = effectiveAddress (s.reg (regA w)) (imm16 w) := by
  simp [resolved, h, alu, effectiveAddress]

/-! The effect of a word by what it leaves to MEM and WB, each in the terms of its latch. -/

section Effects

variable {w : Word} {s : State}

theorem effect_of_load_lt (h : (decode w).memRead = true) (hbound : (resolved w s).aluResult.toNat < s.memSize) :
    effect w s = (completeEXMEM (resolved w s) s).setPc (nextPc w s) := by
  rw [completeEXMEM_of_load_lt (e := resolved w s) h hbound]
  obtain ⟨a, b, off, e⟩ := (memRead_iff _).1 h
  obtain ⟨rfl, rfl, rfl⟩ := fields_of_decode_lw e
  rw [nextPc_of_not_isBranch s (by rw [e]; rfl)]
  rw [resolved_aluResult_of_addAOff s (by rw [e]; rfl)] at hbound ⊢
  rw [completeMEMWB_of_dest s (d := (regB w).toNat) (by simp [resolved, e, Instr.dest]), writeReg_field, effect, e,
    LoadStore.exec_lw_of_lt _ hbound]
  rfl

theorem effect_of_load_le (h : (decode w).memRead = true) (hbound : s.memSize ≤ (resolved w s).aluResult.toNat) :
    effect w s = s.takeFault (.dataAddressOutOfBounds (resolved w s).aluResult) := by
  obtain ⟨a, b, off, e⟩ := (memRead_iff _).1 h
  obtain ⟨rfl, rfl, rfl⟩ := fields_of_decode_lw e
  rw [resolved_aluResult_of_addAOff s (by rw [e]; rfl)] at hbound ⊢
  rw [effect, e, LoadStoreEffects.exec_lw_of_le _ hbound]
  rfl

theorem effect_of_store_lt (h : (decode w).memWrite = true) (hbound : (resolved w s).aluResult.toNat < s.memSize) :
    effect w s = (completeEXMEM (resolved w s) s).setPc (nextPc w s) := by
  rw [completeEXMEM_of_store_lt (e := resolved w s) h hbound]
  obtain ⟨a, b, off, e⟩ := (memWrite_iff _).1 h
  obtain ⟨rfl, rfl, rfl⟩ := fields_of_decode_sw e
  rw [nextPc_of_not_isBranch s (by rw [e]; rfl)]
  rw [resolved_aluResult_of_addAOff s (by rw [e]; rfl)] at hbound ⊢
  rw [effect, e, LoadStore.exec_sw_of_lt _ hbound]
  rfl

theorem effect_of_store_le (h : (decode w).memWrite = true) (hbound : s.memSize ≤ (resolved w s).aluResult.toNat) :
    effect w s = s.takeFault (.dataAddressOutOfBounds (resolved w s).aluResult) := by
  obtain ⟨a, b, off, e⟩ := (memWrite_iff _).1 h
  obtain ⟨rfl, rfl, rfl⟩ := fields_of_decode_sw e
  rw [resolved_aluResult_of_addAOff s (by rw [e]; rfl)] at hbound ⊢
  rw [effect, e, LoadStoreEffects.exec_sw_of_le _ hbound]
  rfl

variable (s)

theorem effect_of_result {d : Nat} (hdest : (decode w).dest = some d) (hload : (decode w).memRead = false) :
    effect w s = outcomeState s (settle s ((writeReg s.regs d (resolved w s).aluResult).map
      fun regs => (s.setRegs regs).advance)) := by
  cases e : decode w with
  | add a b d =>
    obtain ⟨rfl, rfl, rfl⟩ := fields_of_decode_add e
    rw [e] at hdest
    cases hdest
    simp only [effect, e, exec, execAdd, resolved, Instr.aluSel, alu]
  | nor a b d =>
    obtain ⟨rfl, rfl, rfl⟩ := fields_of_decode_nor e
    rw [e] at hdest
    cases hdest
    simp only [effect, e, exec, execNor, resolved, Instr.aluSel, alu]
  | lw => simp [e, Instr.memRead] at hload
  | sw | beq | jalr | halt | noop => simp [e, Instr.dest] at hdest

theorem effect_of_halt (h : (decode w).isHalt = true) :
    effect w s = s.setWbend { instr := haltW, writeData := 0#32 } := by
  rw [effect, (isHalt_iff _).1 h, Halt.exec_halt]
  rfl

theorem effect_of_beq {a b : RegIdx} {off : Field16} (e : decode w = .beq a b off) :
    effect w s = s.setPc (nextPc w s) := by
  obtain ⟨rfl, rfl, rfl⟩ := fields_of_decode_beq e
  rw [effect, nextPc, branchesIn, e]
  cases heq : eq32 (s.reg (regA w)) (s.reg (regB w)) <;>
    simp [exec, execBeq, branchOutcome, Instr.isBranch, heq, outcomeState, State.advance]

/-- A BEQ, JALR or NOOP moves `pc` and nothing else (R100, R101, R106). -/
theorem effect_of_dest_none (hdest : (decode w).dest = none) (hstore : (decode w).memWrite = false)
    (hhalt : (decode w).isHalt = false) : effect w s = s.setPc (nextPc w s) := by
  cases e : decode w with
  | beq a b off => exact effect_of_beq s e
  | jalr =>
    rw [nextPc_of_not_isBranch s (by rw [e]; rfl), effect, e, Branch.exec_jalr]
    rfl
  | noop =>
    rw [nextPc_of_not_isBranch s (by rw [e]; rfl), effect, e, Branch.exec_noop]
    rfl
  | add | nor | lw => simp [e, Instr.dest] at hdest
  | sw => simp [e, Instr.memWrite] at hstore
  | halt => simp [e, Instr.isHalt] at hhalt

end Effects

/-- The effect of a word is the completion of its latch, its MEM work and then its WB work, with `pc` moved on unless
the word faults or halts (R119, R133, R135). -/
theorem effect_cases (w : Word) (s : State) :
    (∃ f, effect w s = s.takeFault f ∧ completeEXMEM (resolved w s) s = s.takeFault f) ∨
    ((decode w).isHalt = true ∧ effect w s = completeEXMEM (resolved w s) s ∧ (effect w s).halted = true) ∨
    effect w s = (completeEXMEM (resolved w s) s).setPc (nextPc w s) := by
  cases hload : (decode w).memRead with
  | true =>
    rcases lt_or_ge (resolved w s).aluResult.toNat s.memSize with hbound | hbound
    · exact .inr (.inr (effect_of_load_lt hload hbound))
    · exact .inl ⟨_, effect_of_load_le hload hbound, completeEXMEM_of_load_le (e := resolved w s) hload hbound⟩
  | false =>
    cases hstore : (decode w).memWrite with
    | true =>
      rcases lt_or_ge (resolved w s).aluResult.toNat s.memSize with hbound | hbound
      · exact .inr (.inr (effect_of_store_lt hstore hbound))
      · exact .inl ⟨_, effect_of_store_le hstore hbound, completeEXMEM_of_store_le (e := resolved w s) hstore hbound⟩
    | false =>
      have hcomplete : completeEXMEM (resolved w s) s = completeMEMWB ⟨w, (resolved w s).aluResult⟩ s :=
        completeEXMEM_of_other (e := resolved w s) s hload hstore
      rw [hcomplete]
      cases hdest : (decode w).dest with
      | some d =>
        rw [effect_of_result s hdest hload, completeMEMWB_of_dest (m := ⟨w, (resolved w s).aluResult⟩) s hdest]
        rcases writeReg_cases s.regs d (resolved w s).aluResult with ⟨_, hwrite⟩ | ⟨_, hwrite⟩
        · rw [hwrite, nextPc_of_not_isBranch s (isBranch_eq_false_of_dest hdest)]
          exact .inr (.inr rfl)
        · rw [hwrite]
          exact .inl ⟨_, rfl, rfl⟩
      | none =>
        cases hhalt : (decode w).isHalt with
        | true =>
          rw [effect_of_halt s hhalt, completeMEMWB_of_halt (m := ⟨w, (resolved w s).aluResult⟩) s hhalt]
          exact .inr (.inl ⟨rfl, rfl, halted_setWbend_haltW s⟩)
        | false =>
          rw [effect_of_dest_none s hdest hstore hhalt,
            completeMEMWB_of_dest_none (m := ⟨w, (resolved w s).aluResult⟩) s hhalt hdest]
          exact .inr (.inr rfl)

theorem archView_effect (w : Word) (s : State) :
    archView (effect w s) = archView (completeEXMEM (resolved w s) s) := by
  rcases effect_cases w s with ⟨f, he, hc⟩ | ⟨-, he, -⟩ | he
  · rw [he, hc]
  · rw [he]
  · rw [he, archView_setPc]

/-- A word that neither faults nor is a HALT goes on at its next address. -/
theorem effect_pc {w : Word} {s : State} (hfault : (effect w s).fault = none) (hhalt : (decode w).isHalt = false) :
    (effect w s).pc = nextPc w s := by
  rcases effect_cases w s with ⟨f, he, -⟩ | ⟨htrue, -, -⟩ | he
  · rw [he] at hfault
    cases hfault
  · cases hhalt.symm.trans htrue
  · rw [he, setPc_pc]

theorem effect_halted_of_isHalt {w : Word} (s : State) (h : (decode w).isHalt = true) : (effect w s).halted = true := by
  rw [effect_of_halt s h, halted_setWbend_haltW]

theorem effect_pc_of_running {w : Word} {s : State} (h : (effect w s).running = true) :
    (effect w s).pc = nextPc w s := by
  obtain ⟨hfault, hhalted⟩ := (running_iff _).1 h
  refine effect_pc hfault (Bool.eq_false_iff.2 fun hhalt => ?_)
  cases hhalted.symm.trans (effect_halted_of_isHalt s hhalt)

/-- The effect of a word depends on the program's view alone. -/
theorem programView_effect_congr {a b : State} (h : archView a = archView b) (hpc : a.pc = b.pc) (w : Word) :
    programView (effect w a) = programView (effect w b) := by
  have hresolved : resolved w a = resolved w b := by
    rw [resolved, resolved, hpc, branchesIn_congr h, reg_congr h, reg_congr h]
  have harch : archView (effect w a) = archView (effect w b) := by
    rw [archView_effect, archView_effect, hresolved]
    exact archView_completeEXMEM_congr h rfl (fun _ => rfl) (fun _ => rfl)
  refine programView_eq_iff.2 ⟨harch, fun hrun => ?_⟩
  rw [effect_pc_of_running hrun, effect_pc_of_running (running_congr harch ▸ hrun), nextPc, nextPc,
    branchesIn_congr h, hpc]

/-! ### Completing a word in ID/EX or IF/ID -/

theorem nextAddr_sub_one (p : Word) : nextAddr (p - 1#32) = p := BitVec.sub_add_cancel p 1#32

/-- The word with address `p` less 1 completed in a state that has not stopped: what `afterIDEX` and `afterIFID` do. -/
def completeNext (w p : Word) (s : State) : State := ifRunning s (completeWord w p)

theorem completeWord_eq_effect (w p : Word) (s : State) : completeWord w p s = effect w (s.setPc (p - 1#32)) := by
  rw [completeWord, exec_decode]
  rfl

theorem completeNext_of_running (w p : Word) {s : State} (h : s.running = true) :
    completeNext w p s = effect w (s.setPc (p - 1#32)) := by
  rw [completeNext, ifRunning, if_pos h, completeWord_eq_effect]

theorem completeNext_of_stopped (w p : Word) {s : State} (h : s.running = false) : completeNext w p s = s := by
  rw [completeNext, ifRunning, h]
  rfl

theorem programView_completeNext_congr {a b : State} (h : archView a = archView b) (w p : Word) :
    programView (completeNext w p a) = programView (completeNext w p b) := by
  cases hrun : a.running with
  | true =>
    rw [completeNext_of_running w p hrun, completeNext_of_running w p (running_congr h ▸ hrun)]
    exact programView_effect_congr (a := a.setPc (p - 1#32)) (b := b.setPc (p - 1#32)) h rfl w
  | false =>
    rw [completeNext_of_stopped w p hrun, completeNext_of_stopped w p (running_congr h ▸ hrun)]
    exact programView_of_stopped h hrun

theorem archView_completeNext_congr {a b : State} (h : archView a = archView b) (w p : Word) :
    archView (completeNext w p a) = archView (completeNext w p b) :=
  (programView_eq_iff.1 (programView_completeNext_congr h w p)).1

/-- A no-op in flight changes nothing that a program sees. -/
theorem archView_completeNext_noopW (p : Word) (s : State) : archView (completeNext noopW p s) = archView s := by
  cases hrun : s.running with
  | true =>
    rw [completeNext_of_running noopW p hrun, effect_of_dest_none _ (by decide) (by decide) (by decide)]
    rfl
  | false => rw [completeNext_of_stopped noopW p hrun]

/-- A completed word that leaves the machine running goes on behind itself, or at its target. -/
theorem completeNext_pc {w p : Word} {s : State} (h : (completeNext w p s).running = true) (hrun : s.running = true) :
    (completeNext w p s).pc = if branchesIn w s then branchTarget p (imm16 w) else p := by
  rw [completeNext_of_running w p hrun] at h ⊢
  rw [effect_pc_of_running h, nextPc, setPc_pc, nextAddr_sub_one]
  rfl

end Sys2Proof.Proofs.ProgramOrder

/-! Proofs. The committed cycle against the program order (R119): each instruction in flight, completed before the cycle, is
completed alike from the latch that the cycle moves it to, and the word that the cycle fetches is the next one of the
program order. -/

namespace Sys2Proof.Proofs.Refinement

open Sys2Proof Sys2Proof.Machine Sys2Proof.Safety Sys2Proof.Laws Sys2Proof.Proofs.DontCare
open Sys2Proof.Proofs.CommittedCycle Sys2Proof.Proofs.ProgramOrder

/-! ### The chain of completions -/

theorem ifRunning_of_running {s : State} (h : s.running = true) (f : State → State) : ifRunning s f = f s := if_pos h

theorem ifRunning_of_stopped {s : State} (h : s.running = false) (f : State → State) : ifRunning s f = s := by
  rw [ifRunning, h]
  rfl

/-- What still runs after one more completion ran before it. -/
theorem running_of_ifRunning {s : State} {f : State → State} (h : (ifRunning s f).running = true) :
    s.running = true := by
  cases hrun : s.running with
  | true => rfl
  | false => rwa [ifRunning_of_stopped hrun, hrun] at h

theorem afterIDEX_eq (s : State) : afterIDEX s = completeNext s.idex.instr s.idex.pcPlus1 (afterEXMEM s) := rfl

theorem afterIFID_eq (s : State) : afterIFID s = completeNext s.ifid.instr s.ifid.pcPlus1 (afterIDEX s) := rfl

/-- An instruction without a result, without memory work and other than HALT has nothing left to do in EX/MEM. -/
theorem completeEXMEM_of_idle {e : EXMEM} (s : State) (hload : (decode e.instr).memRead = false)
    (hstore : (decode e.instr).memWrite = false) (hdest : (decode e.instr).dest = none)
    (hhalt : (decode e.instr).isHalt = false) : completeEXMEM e s = s := by
  rw [completeEXMEM_of_other s hload hstore]
  exact completeMEMWB_of_dest_none (m := ⟨e.instr, e.aluResult⟩) s hhalt hdest

theorem completeEXMEM_of_noop {e : EXMEM} (s : State) (h : e.instr = noopW) : completeEXMEM e s = s := by
  apply completeEXMEM_of_idle <;> rw [h, decode_noopW] <;> rfl

theorem completeEXMEM_of_isBranch {e : EXMEM} (s : State) (h : (decode e.instr).isBranch = true) :
    completeEXMEM e s = s := by
  obtain ⟨a, b, off, hbeq⟩ := (isBranch_iff _).1 h
  apply completeEXMEM_of_idle <;> rw [hbeq] <;> rfl

theorem afterMEMWB_of_noop {s : State} (h : s.memwb.instr = noopW) : afterMEMWB s = s := by
  have hdest : (decode s.memwb.instr).dest = none := by rw [h, decode_noopW]; rfl
  have hhalt : (decode s.memwb.instr).isHalt = false := by rw [h, decode_noopW]; rfl
  rw [afterMEMWB, ifRunning, completeMEMWB_of_dest_none s hhalt hdest, ite_self]

theorem afterEXMEM_of_noop {s : State} (h : s.exmem.instr = noopW) : afterEXMEM s = afterMEMWB s := by
  rw [afterEXMEM, ifRunning, completeEXMEM_of_noop _ h, ite_self]

theorem branchesIn_noopW (s : State) : branchesIn noopW s = false := branchesIn_of_not_isBranch s (by decide)

theorem archView_afterIDEX_of_noop {s : State} (h : s.idex.instr = noopW) :
    archView (afterIDEX s) = archView (afterEXMEM s) := by
  rw [afterIDEX_eq, h, archView_completeNext_noopW]

/-! ### The flush leaves WB and the store of MEM alone (R173) -/

theorem wbStage_flushAdjust (s : State) : wbStage (flushAdjust s) = wbStage s := by simp [wbStage]

theorem completeEXMEM_flushAdjust (s b : State) : completeEXMEM (flushAdjust s).exmem b = completeEXMEM s.exmem b := by
  cases htaken : takenBranch s with
  | false => rw [flushAdjust_of_not_taken s htaken]
  | true =>
    rw [flushAdjust_exmem, htaken, completeEXMEM_of_isBranch b (Bool.and_eq_true_iff.1 htaken).1]
    exact completeEXMEM_of_noop b rfl

theorem memWrite_flushAdjust (s : State) :
    (decode (flushAdjust s).exmem.instr).memWrite = (decode s.exmem.instr).memWrite := by
  cases htaken : takenBranch s with
  | false => rw [flushAdjust_of_not_taken s htaken]
  | true =>
    have hbubble : (decode bubbleEXMEM.instr).memWrite = false := by decide
    rw [flushAdjust_exmem, htaken, Frames.memWrite_eq_false_of_isBranch (Bool.and_eq_true_iff.1 htaken).1]
    exact hbubble

/-- A committed cycle without an SW in EX/MEM keeps data memory (R133). -/
theorem dmem_of_commits {s t : State} (h : Commits s t) (hstore : (decode s.exmem.instr).memWrite = false) :
    t.dmem = s.dmem := by
  rw [← memWrite_flushAdjust] at hstore
  obtain ⟨-, hmem, -⟩ := commits_stages h
  rw [← flushAdjust_dmem s]
  rcases memStage_cases (flushAdjust s) with ⟨-, -, e⟩ | ⟨htrue, -, -⟩ | ⟨-, -, e⟩ | ⟨-, -, e⟩
  · exact (Prod.mk.inj (Except.ok.inj (hmem.symm.trans e))).2
  · cases hstore.symm.trans htrue
  · exact (Prod.mk.inj (Except.ok.inj (hmem.symm.trans e))).2
  · cases e.symm.trans hmem

/-! ### MEM/WB and EX/MEM after the cycle -/

theorem halted_of_commits {s t : State} (h : Commits s t) : t.halted = (decode s.memwb.instr).isHalt := by
  obtain ⟨-, -, -, hwbend⟩ := Halt.commits_moves h
  rw [State.halted, hwbend]

theorem running_of_commits {s t : State} (h : Commits s t) : t.running = !(decode s.memwb.instr).isHalt := by
  rw [State.running, halted_of_commits h, h.2]
  rfl

/-- WB on a state that has not halted is the completion of the instruction in MEM/WB (R135, R136). -/
theorem archView_completeMEMWB_of_wbStage {s : State} {wbend : WBEND} {regs : Vector Word 8}
    (h : wbStage s = .ok (wbend, regs)) (hrun : s.halted = false) :
    archView (completeMEMWB s.memwb s) =
      { archView s with regs := regs, halted := (decode s.memwb.instr).isHalt } := by
  rcases wbStage_cases s with ⟨hdest, e⟩ | ⟨d, hdest, ⟨hd, e⟩ | ⟨-, e⟩⟩
  · obtain ⟨-, rfl⟩ := Prod.mk.inj (Except.ok.inj (h.symm.trans e))
    cases hhalt : (decode s.memwb.instr).isHalt with
    | true =>
      rw [completeMEMWB_of_halt s hhalt, archView_setWbend_haltW]
      rfl
    | false =>
      rw [completeMEMWB_of_dest_none s hhalt hdest, ← hrun]
      rfl
  · obtain ⟨-, rfl⟩ := Prod.mk.inj (Except.ok.inj (h.symm.trans e))
    rw [completeMEMWB_of_dest s hdest, Arithmetic.writeReg_of_lt s.regs hd, isHalt_eq_false_of_dest hdest, ← hrun]
    rfl
  · cases e.symm.trans h

/-- The cycle completes the instruction in MEM/WB, before its own MEM work shows. -/
theorem archView_afterMEMWB {s t : State} (h : Commits s t) :
    archView (afterMEMWB s) = archView (t.setDmem s.dmem) := by
  obtain ⟨hsize, himem⟩ := commits_storage h
  obtain ⟨hwb, -, -⟩ := commits_stages h
  have hrun := running_of_step h.1
  obtain ⟨hfault, hhalted⟩ := (running_iff s).1 hrun
  rw [wbStage_flushAdjust] at hwb
  rw [afterMEMWB, ifRunning_of_running hrun, archView_completeMEMWB_of_wbStage hwb hhalted, ← halted_of_commits h]
  simp only [archView, programView, ← hsize, ← himem, hfault, ← h.2]
  rfl

/-- What MEM does and hands on is what completing EX/MEM does and then leaves to WB (R133, R134). -/
theorem archView_completeMEMWB_of_memStage {x b t : State} (hmem : memStage x = .ok (t.memwb, t.dmem))
    (hb : archView b = archView (t.setDmem x.dmem)) (hsize : t.memSize = x.memSize) :
    archView (completeMEMWB t.memwb t) = archView (completeEXMEM x.exmem b) := by
  have hbsize : b.memSize = x.memSize := (memSize_congr (b := t.setDmem x.dmem) hb).trans hsize
  have hbdmem : b.dmem = x.dmem := dmem_congr (b := t.setDmem x.dmem) hb
  rcases memStage_cases x with ⟨hload, hbound, e⟩ | ⟨hstore, hbound, e⟩ | ⟨hload, hstore, e⟩ | ⟨-, -, e⟩
  · obtain ⟨hmemwb, hdmem⟩ := Prod.mk.inj (Except.ok.inj (hmem.symm.trans e))
    rw [← hdmem] at hb
    rw [completeEXMEM_of_load_lt hload (hbsize ▸ hbound), hmemwb, hbdmem]
    exact archView_completeMEMWB_congr hb.symm rfl fun _ => rfl
  · obtain ⟨hmemwb, hdmem⟩ := Prod.mk.inj (Except.ok.inj (hmem.symm.trans e))
    obtain ⟨a, c, off, hsw⟩ := (memWrite_iff _).1 hstore
    rw [completeEXMEM_of_store_lt hstore (hbsize ▸ hbound), hbdmem, ← hdmem, archView_setDmem, hb,
      completeMEMWB_of_dest_none t (by rw [hmemwb, hsw]; rfl) (by rw [hmemwb, hsw]; rfl)]
    rfl
  · obtain ⟨hmemwb, hdmem⟩ := Prod.mk.inj (Except.ok.inj (hmem.symm.trans e))
    rw [← hdmem] at hb
    rw [completeEXMEM_of_other b hload hstore, hmemwb]
    exact archView_completeMEMWB_congr hb.symm rfl fun _ => rfl
  · cases e.symm.trans hmem

/-- The store that the program order does not have: that of the SW directly behind a HALT (R105, R211). -/
def storesBehindHalt (s : State) : Prop :=
  (decode s.memwb.instr).isHalt = true ∧ (decode s.exmem.instr).memWrite = true

/-- Completing MEM/WB after the cycle is completing MEM/WB and EX/MEM before it. -/
theorem archView_afterMEMWB_next {s t : State} (h : Commits s t) (hstore : ¬ storesBehindHalt s) :
    archView (afterMEMWB t) = archView (afterEXMEM s) := by
  have hwb := archView_afterMEMWB h
  obtain ⟨-, hmem, -⟩ := commits_stages h
  have hrun : (afterMEMWB s).running = t.running := running_congr (b := t.setDmem s.dmem) hwb
  have hrunT := running_of_commits h
  rw [afterMEMWB, afterEXMEM]
  cases hhalt : (decode s.memwb.instr).isHalt with
  | false =>
    rw [hhalt] at hrunT
    rw [ifRunning_of_running hrunT, ifRunning_of_running (hrun.trans hrunT), ← completeEXMEM_flushAdjust]
    exact archView_completeMEMWB_of_memStage hmem (by rwa [flushAdjust_dmem])
      (by rw [flushAdjust_memSize, (commits_storage h).1])
  | true =>
    rw [hhalt] at hrunT
    rw [ifRunning_of_stopped hrunT, ifRunning_of_stopped (hrun.trans hrunT), hwb,
      ← dmem_of_commits h (Bool.eq_false_iff.2 fun hwrite => hstore ⟨hhalt, hwrite⟩)]
    rfl

/-! ### EX resolves the operands of the program order (R129, R163, R167) -/

/-- An instruction in MEM/WB that completes without a fault leaves its value in its register. -/
theorem completeMEMWB_reg {m : MEMWB} {s : State} (h : (completeMEMWB m s).fault = none) (r : RegIdx) :
    (completeMEMWB m s).reg r = if forwardsTo m.instr r then m.writeData else s.reg r := by
  simp only [forwardsTo_iff]
  cases hdest : (decode m.instr).dest with
  | none =>
    cases hhalt : (decode m.instr).isHalt with
    | true =>
      rw [completeMEMWB_of_halt s hhalt]
      rfl
    | false =>
      rw [completeMEMWB_of_dest_none s hhalt hdest]
      rfl
  | some d =>
    rw [completeMEMWB_of_dest s hdest] at h ⊢
    rcases writeReg_cases s.regs d m.writeData with ⟨hd, e⟩ | ⟨-, e⟩
    · rw [e]
      simp only [Option.some_inj, eq_comm (a := d)]
      exact readReg_set s.regs d hd m.writeData r
    · rw [e] at h
      cases h

/-- An instruction in EX/MEM that completes without a fault leaves its ALU result in its register, unless it is an
LW. -/
theorem completeEXMEM_reg {e : EXMEM} {s : State} (h : (completeEXMEM e s).fault = none) (r : RegIdx)
    (hload : (decode e.instr).memRead = true → forwardsTo e.instr r = false) :
    (completeEXMEM e s).reg r = if forwardsTo e.instr r then e.aluResult else s.reg r := by
  cases hread : (decode e.instr).memRead with
  | true =>
    rcases lt_or_ge e.aluResult.toNat s.memSize with hbound | hbound
    · rw [completeEXMEM_of_load_lt hread hbound] at h ⊢
      rw [completeMEMWB_reg h, hload hread]
      rfl
    · rw [completeEXMEM_of_load_le hread hbound] at h
      cases h
  | false =>
    cases hwrite : (decode e.instr).memWrite with
    | true =>
      obtain ⟨a, b, off, hsw⟩ := (memWrite_iff _).1 hwrite
      have hno : forwardsTo e.instr r = false := by simp [forwardsTo, hsw, Instr.dest]
      rcases lt_or_ge e.aluResult.toNat s.memSize with hbound | hbound
      · rw [completeEXMEM_of_store_lt hwrite hbound, hno]
        rfl
      · rw [completeEXMEM_of_store_le hwrite hbound] at h
        cases h
    | false =>
      rw [completeEXMEM_of_other s hread hwrite] at h ⊢
      exact completeMEMWB_reg h r

/-- While the older instructions complete without stopping the machine, each leaves its result in its register. -/
theorem afterEXMEM_reg {s : State} (hrun : (afterEXMEM s).running = true) (r : RegIdx)
    (hload : (decode s.exmem.instr).memRead = true → forwardsTo s.exmem.instr r = false) :
    (afterEXMEM s).reg r =
      if forwardsTo s.exmem.instr r then s.exmem.aluResult
      else if forwardsTo s.memwb.instr r then s.memwb.writeData
      else s.reg r := by
  have hrunM : (afterMEMWB s).running = true := running_of_ifRunning hrun
  have hrunS : s.running = true := running_of_ifRunning hrunM
  obtain ⟨hfault, -⟩ := (running_iff _).1 hrun
  obtain ⟨hfaultM, -⟩ := (running_iff _).1 hrunM
  rw [afterEXMEM, ifRunning_of_running hrunM] at hfault ⊢
  rw [completeEXMEM_reg hfault r hload]
  rw [afterMEMWB, ifRunning_of_running hrunS] at hfaultM ⊢
  rw [completeMEMWB_reg hfaultM]

/-- What the network supplies for a register that the instruction in ID/EX reads is the register in program order. -/
theorem fwd_eq_reg {s : State} (hinv : HazardInv s) (hrun : (afterEXMEM s).running = true) {r : RegIdx} {v : Word}
    (hreads : readsReg s.idex.instr r = true) (hfresh : NoSourceFor s r → v = s.reg r) :
    fwd r v s.exmem s.memwb s.wbend = (afterEXMEM s).reg r := by
  obtain ⟨-, -, hnoLoadUse, hretired, -⟩ := hinv
  have hload : (decode s.exmem.instr).memRead = true → forwardsTo s.exmem.instr r = false := by
    intro hread
    have hother := hnoLoadUse hread
    obtain ⟨a, b, off, hlw⟩ := (memRead_iff _).1 hread
    obtain ⟨-, rfl, -⟩ := fields_of_decode_lw hlw
    refine Bool.eq_false_iff.2 fun hsource => ?_
    rw [forwardsTo_iff, hlw] at hsource
    rw [BitVec.eq_of_toNat_eq (Option.some.inj hsource), hreads] at hother
    cases hother
  rw [afterEXMEM_reg hrun r hload]
  rcases fwd_cases r v s.exmem s.memwb s.wbend with ⟨hx, e⟩ | ⟨hx, hm, e⟩ | ⟨hx, hm, hw, e⟩ | ⟨hx, hm, hw, e⟩
  · rw [e, if_pos hx]
  · rw [e, hx, hm]
    rfl
  · rw [e, hx, hm, ← hretired r hw]
    rfl
  · rw [e, hx, hm, hfresh ⟨hx, hm, hw⟩]
    rfl

theorem operandA_eq_reg {s : State} (hinv : HazardInv s) (hrun : (afterEXMEM s).running = true)
    (hreads : (decode s.idex.instr).readsA = true) : operandA s = (afterEXMEM s).reg (regA s.idex.instr) := by
  have ⟨_, _, _, _, hfreshA, _⟩ := hinv
  exact fwd_eq_reg hinv hrun (by simp [readsReg, hreads]) (hfreshA hreads)

theorem operandB_eq_reg {s : State} (hinv : HazardInv s) (hrun : (afterEXMEM s).running = true)
    (hreads : (decode s.idex.instr).readsB = true) : operandB s = (afterEXMEM s).reg (regB s.idex.instr) := by
  have ⟨_, _, _, _, _, hfreshB⟩ := hinv
  exact fwd_eq_reg hinv hrun (by simp [readsReg, hreads]) (hfreshB hreads)

/-! ### The latch that EX writes is the one that program order gives the word, as far as its fields are meaningful -/

section Resolved

variable {s : State} (hinv : HazardInv s) (hrun : (afterEXMEM s).running = true)
include hinv hrun

theorem exStage_aluResult (h : aluResultMeaningful (decode s.idex.instr) = true) (p : Word) :
    (exStage s).aluResult = (resolved s.idex.instr ((afterEXMEM s).setPc p)).aluResult := by
  have hA := operandA_eq_reg hinv hrun
  have hB := operandB_eq_reg hinv hrun
  obtain ⟨-, hoffset, -, -, -⟩ := hinv
  simp only [exStage, resolved]
  cases e : decode s.idex.instr with
  | add | nor =>
    rw [e] at hA hB
    rw [hA rfl, hB rfl]
    rfl
  | lw | sw =>
    rw [e] at hA
    rw [hA rfl, hoffset]
    rfl
  | beq | jalr | halt | noop => simp [e, aluResultMeaningful, Instr.regWrite, Instr.dest, Instr.memWrite] at h

theorem exStage_readRegB (h : (decode s.idex.instr).memWrite = true) (p : Word) :
    (exStage s).readRegB = (resolved s.idex.instr ((afterEXMEM s).setPc p)).readRegB := by
  obtain ⟨a, b, off, e⟩ := (memWrite_iff _).1 h
  exact operandB_eq_reg hinv hrun (by rw [e]; rfl)

theorem branchOutcome_eq_branchesIn :
    branchOutcome (decode s.idex.instr) (operandA s) (operandB s) = branchesIn s.idex.instr (afterEXMEM s) := by
  cases hbranch : (decode s.idex.instr).isBranch with
  | false => rw [branchesIn_of_not_isBranch _ hbranch, branchOutcome, hbranch, Bool.false_and]
  | true =>
    obtain ⟨a, b, off, e⟩ := (isBranch_iff _).1 hbranch
    rw [operandA_eq_reg hinv hrun (by rw [e]; rfl), operandB_eq_reg hinv hrun (by rw [e]; rfl)]
    rfl

end Resolved

/-! ### ID/EX and IF/ID after the cycle -/

section Next

variable {s t : State} (h : Commits s t)
include h

/-- EX with the operands of the program order: completing EX/MEM after the cycle is completing ID/EX before it. -/
theorem archView_afterEXMEM_next (hinv : HazardInv s) (hstore : ¬ storesBehindHalt s) (htaken : takenBranch s = false) :
    archView (afterEXMEM t) = archView (afterIDEX s) := by
  have hnext := archView_afterMEMWB_next h hstore
  have hrunT : (afterMEMWB t).running = (afterEXMEM s).running := running_congr hnext
  cases hrun : (afterEXMEM s).running with
  | false => rw [afterEXMEM, ifRunning_of_stopped (hrunT.trans hrun), afterIDEX, ifRunning_of_stopped hrun, hnext]
  | true =>
    have hexmem : t.exmem = exStage s := by rw [commits_exmem h, flushAdjust_of_not_taken s htaken]
    rw [afterEXMEM, ifRunning_of_running (hrunT.trans hrun), afterIDEX_eq, completeNext_of_running _ _ hrun,
      archView_effect, hexmem]
    exact archView_completeEXMEM_congr hnext rfl (fun halu => exStage_aluResult hinv hrun halu _)
      (fun hwrite => exStage_readRegB hinv hrun hwrite _)

theorem archView_afterIDEX_flows (hinv : HazardInv s) (hstore : ¬ storesBehindHalt s) (htaken : takenBranch s = false)
    (hstall : loadUseStall s.ifid s.idex = false) : archView (afterIDEX t) = archView (afterIFID s) := by
  obtain ⟨-, -, -, hinstr, hpcPlus1⟩ := commits_flows h htaken hstall
  rw [afterIDEX_eq, afterIFID_eq, hinstr, hpcPlus1]
  exact archView_completeNext_congr (archView_afterEXMEM_next h hinv hstore htaken) _ _

theorem archView_afterIDEX_stalled (hinv : HazardInv s) (hstore : ¬ storesBehindHalt s) (htaken : takenBranch s = false)
    (hstall : loadUseStall s.ifid s.idex = true) : archView (afterIDEX t) = archView (afterIDEX s) := by
  obtain ⟨-, -, hbubble⟩ := commits_stalled h htaken hstall
  rw [archView_afterIDEX_of_noop (by rw [hbubble]; rfl), archView_afterEXMEM_next h hinv hstore htaken]

/-- A flush leaves nothing behind the BEQ in flight. -/
theorem archView_afterIDEX_flushed (hstore : ¬ storesBehindHalt s) (htaken : takenBranch s = true) :
    archView (afterIDEX t) = archView (afterEXMEM s) := by
  obtain ⟨-, -, -, hidex, hexmem⟩ := commits_flushed h htaken
  rw [archView_afterIDEX_of_noop hidex, afterEXMEM_of_noop hexmem, archView_afterMEMWB_next h hstore]

/-- EX computes the target that program order has (R100, R131). -/
theorem branchTarget_next (hinv : HazardInv s) (htaken : takenBranch s = false) :
    t.exmem.branchTarget = branchTarget s.idex.pcPlus1 (imm16 s.idex.instr) := by
  obtain ⟨-, hoffset, -, -, -⟩ := hinv
  rw [commits_exmem h, flushAdjust_of_not_taken s htaken, branchTarget, ← hoffset]
  rfl

theorem takenBranch_next (hinv : HazardInv s) (hrun : (afterEXMEM s).running = true) (htaken : takenBranch s = false) :
    takenBranch t = branchesIn s.idex.instr (afterEXMEM s) := by
  rw [commits_takenBranch h htaken, branchOutcome_eq_branchesIn hinv hrun]

end Next

/-! ### Where the program order stands in a pipeline state -/

section InOrder

variable {s : State}

theorem inOrder_of_takenBranch (h : takenBranch s = true) :
    inOrder s = (afterEXMEM s).setPc s.exmem.branchTarget := by
  rw [inOrder, if_pos h]

theorem inOrder_of_branch_idex (htaken : takenBranch s = false)
    (h : branchesIn s.idex.instr (afterEXMEM s) = true) : inOrder s = afterIDEX s := by
  simp [inOrder, htaken, h]

theorem inOrder_of_branch_ifid (htaken : takenBranch s = false)
    (hidex : branchesIn s.idex.instr (afterEXMEM s) = false)
    (h : branchesIn s.ifid.instr (afterIDEX s) = true) : inOrder s = afterIFID s := by
  simp [inOrder, htaken, hidex, h]

theorem inOrder_of_straight (htaken : takenBranch s = false)
    (hidex : branchesIn s.idex.instr (afterEXMEM s) = false)
    (hifid : branchesIn s.ifid.instr (afterIDEX s) = false) : inOrder s = (afterIFID s).setPc s.pc := by
  simp [inOrder, htaken, hidex, hifid]

/-- Nothing behind a stop in MEM/WB or EX/MEM is completed. -/
theorem archView_inOrder_of_stopped (h : (afterEXMEM s).running = false) :
    archView (inOrder s) = archView (afterEXMEM s) := by
  have hidex : afterIDEX s = afterEXMEM s := ifRunning_of_stopped h _
  have hifid : afterIFID s = afterEXMEM s := by rw [afterIFID, hidex, ifRunning_of_stopped h]
  unfold inOrder
  split
  · rfl
  · split
    · rw [hidex]
    · split
      · rw [hifid]
      · rw [hifid, archView_setPc]

/-- Nor is the word in IF/ID behind a stop in ID/EX. -/
theorem archView_inOrder_of_stopped_idex (htaken : takenBranch s = false)
    (hidex : branchesIn s.idex.instr (afterEXMEM s) = false) (h : (afterIDEX s).running = false) :
    archView (inOrder s) = archView (afterIDEX s) := by
  have hifid : afterIFID s = afterIDEX s := ifRunning_of_stopped h _
  cases hbranch : branchesIn s.ifid.instr (afterIDEX s) with
  | true => rw [inOrder_of_branch_ifid htaken hidex hbranch, hifid]
  | false => rw [inOrder_of_straight htaken hidex hbranch, archView_setPc, hifid]

/-- With no branch ahead of IF/ID and `pc` behind it, the program order goes on where the word in IF/ID leads. -/
theorem programView_inOrder_of_tracks (htaken : takenBranch s = false)
    (hidex : branchesIn s.idex.instr (afterEXMEM s) = false) (hpc : PcTracksIFID s)
    (hrun : (afterIDEX s).running = true) : programView (inOrder s) = programView (afterIFID s) := by
  cases hifid : branchesIn s.ifid.instr (afterIDEX s) with
  | true => rw [inOrder_of_branch_ifid htaken hidex hifid]
  | false =>
    rw [inOrder_of_straight htaken hidex hifid]
    refine programView_eq_iff.2 ⟨rfl, fun hrunIFID => ?_⟩
    rw [setPc_pc, afterIFID_eq, completeNext_pc hrunIFID hrun, hifid]
    exact hpc

/-- The front end as a stalled cycle holds it: IF/ID and `pc` decide where the program order goes on. -/
theorem programView_inOrder_congr {t : State} (hifid : t.ifid = s.ifid) (hpc : t.pc = s.pc)
    (hview : archView (afterIDEX t) = archView (afterIDEX s))
    (htakenS : takenBranch s = false) (htakenT : takenBranch t = false)
    (hidexS : branchesIn s.idex.instr (afterEXMEM s) = false)
    (hidexT : branchesIn t.idex.instr (afterEXMEM t) = false) :
    programView (inOrder t) = programView (inOrder s) := by
  have hbranch : branchesIn t.ifid.instr (afterIDEX t) = branchesIn s.ifid.instr (afterIDEX s) := by
    rw [hifid, branchesIn_congr hview]
  have hafter : programView (afterIFID t) = programView (afterIFID s) := by
    rw [afterIFID_eq, afterIFID_eq, hifid]
    exact programView_completeNext_congr hview _ _
  cases hifidS : branchesIn s.ifid.instr (afterIDEX s) with
  | true =>
    rwa [inOrder_of_branch_ifid htakenS hidexS hifidS, inOrder_of_branch_ifid htakenT hidexT (hbranch.trans hifidS)]
  | false =>
    rw [inOrder_of_straight htakenS hidexS hifidS, inOrder_of_straight htakenT hidexT (hbranch.trans hifidS)]
    obtain ⟨harch, -⟩ := programView_eq_iff.1 hafter
    exact programView_eq_iff.2 ⟨harch, fun _ => hpc⟩

end InOrder

/-! ### The word that the cycle fetches -/

theorem seqStep_of_lt {s : State} (hrun : s.running = true) (hbound : s.pc.toNat < s.memSize) :
    seqStep s = .next (effect (s.imem.read s.pc.toNat) s) := by
  rw [seqStep, whileRunning_of_running ((status_running_iff s).2 ((running_iff s).1 hrun))]
  rcases iFetch_cases s.memSize s.imem s.pc with ⟨-, e⟩ | ⟨hout, -⟩
  · rw [e]
    exact exec_decode _ s
  · exact absurd hbound (Nat.not_lt.2 hout)

/-- A cycle that left the word at `x`'s `pc` in IF/ID, and what `x` shows ahead of it, ran one instruction from `x`. -/
theorem programView_inOrder_of_fetched {t x : State} (htaken : takenBranch t = false)
    (hidex : branchesIn t.idex.instr (afterEXMEM t) = false) (hview : archView (afterIDEX t) = archView x)
    {w : Word} (hifid : t.ifid = { instr := w, pcPlus1 := nextAddr x.pc }) (hpc : t.pc = nextAddr x.pc) :
    programView (inOrder t) = programView (ifRunning x (effect w)) := by
  have hrunT : (afterIDEX t).running = x.running := running_congr hview
  cases hrun : x.running with
  | true =>
    have htracks : PcTracksIFID t := by rw [PcTracksIFID, hpc, hifid]
    have haddress : nextAddr x.pc - 1#32 = x.pc := BitVec.add_sub_cancel x.pc 1#32
    rw [programView_inOrder_of_tracks htaken hidex htracks (hrunT.trans hrun), afterIFID_eq, hifid,
      programView_completeNext_congr hview, completeNext_of_running _ _ hrun, ifRunning_of_running hrun, haddress]
    rfl
  | false =>
    have hstop := hrunT.trans hrun
    rw [ifRunning_of_stopped hrun]
    have harch := archView_inOrder_of_stopped_idex htaken hidex hstop
    exact programView_of_stopped (harch.trans hview) ((running_congr harch).trans hstop)

/-! ### The completions keep the size and instruction memory -/

/-- What every instruction keeps of what the program sees (R5, R15). -/
def StorageKept (s t : State) : Prop := t.memSize = s.memSize ∧ t.imem = s.imem

theorem StorageKept.trans {s t u : State} (hst : StorageKept s t) (htu : StorageKept t u) : StorageKept s u :=
  ⟨htu.1.trans hst.1, htu.2.trans hst.2⟩

theorem storageKept_ifRunning {f : State → State} (hf : ∀ s, StorageKept s (f s)) (s : State) :
    StorageKept s (ifRunning s f) := by
  rw [ifRunning]
  split
  · exact hf s
  · exact ⟨rfl, rfl⟩

theorem storageKept_completeMEMWB (m : MEMWB) (s : State) : StorageKept s (completeMEMWB m s) := by
  cases hdest : (decode m.instr).dest with
  | none =>
    cases hhalt : (decode m.instr).isHalt with
    | true =>
      rw [completeMEMWB_of_halt s hhalt]
      exact ⟨rfl, rfl⟩
    | false =>
      rw [completeMEMWB_of_dest_none s hhalt hdest]
      exact ⟨rfl, rfl⟩
  | some d =>
    rw [completeMEMWB_of_dest s hdest]
    cases writeReg s.regs d m.writeData <;> exact ⟨rfl, rfl⟩

theorem storageKept_completeEXMEM (e : EXMEM) (s : State) : StorageKept s (completeEXMEM e s) := by
  rw [completeEXMEM]
  split
  · split
    · exact storageKept_completeMEMWB _ s
    · exact ⟨rfl, rfl⟩
  · split
    · cases memWrite s.memSize s.dmem e.aluResult e.readRegB <;> exact ⟨rfl, rfl⟩
    · exact storageKept_completeMEMWB _ s

theorem storageKept_completeWord (w p : Word) (s : State) : StorageKept s (completeWord w p s) := by
  have hview := archView_effect w (s.setPc (p - 1#32))
  obtain ⟨hsize, himem⟩ := storageKept_completeEXMEM (resolved w (s.setPc (p - 1#32))) (s.setPc (p - 1#32))
  rw [completeWord_eq_effect]
  exact ⟨(memSize_congr hview).trans hsize, (imem_congr hview).trans himem⟩

theorem storageKept_afterEXMEM (s : State) : StorageKept s (afterEXMEM s) :=
  (storageKept_ifRunning (storageKept_completeMEMWB _) s).trans (storageKept_ifRunning (storageKept_completeEXMEM _) _)

theorem storageKept_afterIFID (s : State) : StorageKept s (afterIFID s) :=
  ((storageKept_afterEXMEM s).trans (storageKept_ifRunning (storageKept_completeWord _ _) _)).trans
    (storageKept_ifRunning (storageKept_completeWord _ _) _)

/-! ### One committed cycle is one instruction of the program order, or none -/

/-- What O48 says of a cycle from `s` to `t`. -/
def Refines (s t : State) : Prop :=
  if fetchesInOrder s = true then ∃ u : State, seqStep (inOrder s) = .next u ∧ programView (inOrder t) = programView u
  else programView (inOrder t) = programView (inOrder s)

theorem refines_of_idle {s t : State} (hidle : fetchesInOrder s = false)
    (hview : programView (inOrder t) = programView (inOrder s)) : Refines s t := by
  rwa [Refines, if_neg (by simp [hidle])]

/-- A fetch at the program order's own `pc` is its next instruction, unless it has stopped. -/
theorem refines_of_fetch {s t : State} (hfetch : fetchesInOrder s = (inOrder s).running)
    (hstorage : StorageKept s (inOrder s)) (hbound : (inOrder s).pc.toNat < s.memSize)
    (hview : programView (inOrder t) =
      programView (ifRunning (inOrder s) (effect (s.imem.read (inOrder s).pc.toNat)))) : Refines s t := by
  obtain ⟨hsize, himem⟩ := hstorage
  cases hrun : (inOrder s).running with
  | true =>
    rw [ifRunning_of_running hrun, ← himem] at hview
    rw [Refines, if_pos (hfetch.trans hrun)]
    exact ⟨_, seqStep_of_lt hrun (hsize ▸ hbound), hview⟩
  | false =>
    rw [ifRunning_of_stopped hrun] at hview
    exact refines_of_idle (hfetch.trans hrun) hview

section Refines

variable {s t : State} (h : Commits s t) (hinv : HazardInv s) (hstore : ¬ storesBehindHalt s)
include h hstore

/-- A stop in MEM/WB or EX/MEM is a stop of the program order, before and after the cycle. -/
theorem refines_of_stopped (hstop : (afterEXMEM s).running = false) : Refines s t := by
  have hS := archView_inOrder_of_stopped hstop
  have hrunS : (inOrder s).running = false := (running_congr hS).trans hstop
  have hnext := archView_afterMEMWB_next h hstore
  have hafterT : afterEXMEM t = afterMEMWB t := ifRunning_of_stopped ((running_congr hnext).trans hstop) _
  rw [← hafterT] at hnext
  have hT := archView_inOrder_of_stopped ((running_congr hnext).trans hstop)
  have hview : archView (inOrder t) = archView (inOrder s) := hT.trans (hnext.trans hS.symm)
  exact refines_of_idle (by rw [fetchesInOrder, hrunS, Bool.false_and])
    (programView_of_stopped hview ((running_congr hview).trans hrunS))

/-- A cycle that flushes fetches the target of the taken BEQ, where the program order stands (R173). -/
theorem refines_of_flushed (htaken : takenBranch s = true) : Refines s t := by
  obtain ⟨hbound, hpc, hifid, hidex, hexmem⟩ := commits_flushed h htaken
  have hS := inOrder_of_takenBranch htaken
  have hnoBranch : branchesIn t.idex.instr (afterEXMEM t) = false :=
    branchesIn_of_not_isBranch _ (by rw [hidex]; decide)
  refine refines_of_fetch (by rw [fetchesInOrder, htaken, Bool.true_or, Bool.and_true]) ?_ ?_ ?_
  · rw [hS]
    exact storageKept_afterEXMEM s
  · rwa [hS]
  · refine programView_inOrder_of_fetched (not_takenBranch_of_noop hexmem) hnoBranch ?_ ?_ ?_
    · rw [hS, archView_setPc, archView_afterIDEX_flushed h hstore htaken]
    · rw [hS]
      exact hifid
    · rw [hS]
      exact hpc

include hinv

/-- A stalled cycle moves nothing that the program order has not completed (R126, R151). -/
theorem refines_of_stalled (hrun : (afterEXMEM s).running = true) (htaken : takenBranch s = false)
    (hstall : loadUseStall s.ifid s.idex = true) : Refines s t := by
  obtain ⟨hpc, hifid, hbubble⟩ := commits_stalled h htaken hstall
  obtain ⟨a, b, off, hlw⟩ := (memRead_iff _).1 (Bool.and_eq_true_iff.1 hstall).1
  have hidexS : branchesIn s.idex.instr (afterEXMEM s) = false :=
    branchesIn_of_not_isBranch _ (by rw [hlw]; rfl)
  have hidexT : branchesIn t.idex.instr (afterEXMEM t) = false :=
    branchesIn_of_not_isBranch _ (by rw [hbubble]; decide)
  have htakenT : takenBranch t = false := (takenBranch_next h hinv hrun htaken).trans hidexS
  exact refines_of_idle (by simp [fetchesInOrder, htaken, hstall])
    (programView_inOrder_congr hifid hpc (archView_afterIDEX_stalled h hinv hstore htaken hstall) htaken htakenT hidexS
      hidexT)

/-- A BEQ that is taken out of ID/EX goes to its target at the next cycle's start: what is behind it is not completed
(R131, R172). -/
theorem refines_of_branch_idex (hrun : (afterEXMEM s).running = true) (htaken : takenBranch s = false)
    (hidex : branchesIn s.idex.instr (afterEXMEM s) = true) : Refines s t := by
  refine refines_of_idle (by simp [fetchesInOrder, htaken, hidex]) ?_
  have htakenT : takenBranch t = true := (takenBranch_next h hinv hrun htaken).trans hidex
  have htarget := branchTarget_next h hinv htaken
  rw [inOrder_of_branch_idex htaken hidex, inOrder_of_takenBranch htakenT]
  have hview := archView_afterEXMEM_next h hinv hstore htaken
  refine programView_eq_iff.2 ⟨hview, fun hrunT => ?_⟩
  have hrunIDEX : (afterIDEX s).running = true := (running_congr hview).symm.trans hrunT
  rw [setPc_pc, htarget, afterIDEX_eq, completeNext_pc hrunIDEX hrun, hidex]
  rfl

/-- A BEQ that is taken out of IF/ID takes the place of the one in ID/EX. -/
theorem refines_of_branch_ifid (hrun : (afterEXMEM s).running = true) (htaken : takenBranch s = false)
    (hstall : loadUseStall s.ifid s.idex = false) (hidex : branchesIn s.idex.instr (afterEXMEM s) = false)
    (hifid : branchesIn s.ifid.instr (afterIDEX s) = true) : Refines s t := by
  obtain ⟨-, -, -, hinstr, hpcPlus1⟩ := commits_flows h htaken hstall
  have htakenT : takenBranch t = false := (takenBranch_next h hinv hrun htaken).trans hidex
  have hview := archView_afterEXMEM_next h hinv hstore htaken
  have hidexT : branchesIn t.idex.instr (afterEXMEM t) = true := by rw [hinstr, branchesIn_congr hview, hifid]
  refine refines_of_idle (by simp [fetchesInOrder, htaken, hifid]) ?_
  rw [inOrder_of_branch_ifid htaken hidex hifid, inOrder_of_branch_idex htakenT hidexT, afterIDEX_eq, afterIFID_eq,
    hinstr, hpcPlus1]
  exact programView_completeNext_congr hview _ _

/-- With no branch and no stall in the way the cycle fetches where the program order stands (R125). -/
theorem refines_of_straight (hrun : (afterEXMEM s).running = true) (htaken : takenBranch s = false)
    (hstall : loadUseStall s.ifid s.idex = false) (hidex : branchesIn s.idex.instr (afterEXMEM s) = false)
    (hifid : branchesIn s.ifid.instr (afterIDEX s) = false) : Refines s t := by
  obtain ⟨hbound, hpc, hfetched, hinstr, -⟩ := commits_flows h htaken hstall
  have hS := inOrder_of_straight htaken hidex hifid
  have htakenT : takenBranch t = false := (takenBranch_next h hinv hrun htaken).trans hidex
  have hidexT : branchesIn t.idex.instr (afterEXMEM t) = false := by
    rw [hinstr, branchesIn_congr (archView_afterEXMEM_next h hinv hstore htaken), hifid]
  refine refines_of_fetch (by simp [fetchesInOrder, htaken, hstall, hidex, hifid]) ?_ ?_ ?_
  · rw [hS]
    exact storageKept_afterIFID s
  · rwa [hS]
  · refine programView_inOrder_of_fetched htakenT hidexT ?_ ?_ ?_
    · rw [hS, archView_setPc, archView_afterIDEX_flows h hinv hstore htaken hstall]
    · rw [hS]
      exact hfetched
    · rw [hS]
      exact hpc

end Refines

/-- Settles O48, by what the cycle meets first: a stop, the flush, the stall, a branch in ID/EX or in IF/ID, or none. -/
theorem everyCycleRefinesProgramOrder : Obligations.EveryCycleRefinesProgramOrder := by
  intro s t hinv h hstore
  show Refines s t
  cases hrun : (afterEXMEM s).running with
  | false => exact refines_of_stopped h hstore hrun
  | true =>
    cases htaken : takenBranch s with
    | true => exact refines_of_flushed h hstore htaken
    | false =>
      cases hstall : loadUseStall s.ifid s.idex with
      | true => exact refines_of_stalled h hinv hstore hrun htaken hstall
      | false =>
        cases hidex : branchesIn s.idex.instr (afterEXMEM s) with
        | true => exact refines_of_branch_idex h hinv hstore hrun htaken hidex
        | false =>
          cases hifid : branchesIn s.ifid.instr (afterIDEX s) with
          | true => exact refines_of_branch_ifid h hinv hstore hrun htaken hstall hidex hifid
          | false => exact refines_of_straight h hinv hstore hrun htaken hstall hidex hifid

end Sys2Proof.Proofs.Refinement

/-! Proofs. A whole run that halts against the program order (R105, R119): the simulation of one committed cycle,
iterated from reset to the cycle that halts. -/

namespace Sys2Proof.Proofs.HaltedRun

open Sys2Proof Sys2Proof.Machine Sys2Proof.Safety Sys2Proof.Laws
open Sys2Proof.Proofs.CommittedCycle Sys2Proof.Proofs.ProgramOrder Sys2Proof.Proofs.Refinement

/-! ### Runs of the pipeline -/

/-- The step that a run iterates is one clock cycle. -/
theorem core_step : Host.Core.step Sys2Proof.core = step := rfl

/-- A run of one step more begins with a step that has a next state. -/
theorem run_succ {k : Nat} {s t : State} (h : Host.Core.run Sys2Proof.core (k + 1) s = .next t) :
    ∃ u, step s = .next u ∧ Host.Core.run Sys2Proof.core k u = .next t := by
  simp only [Host.Core.run, core_step] at h
  cases hstep : step s with
  | next u =>
    rw [hstep] at h
    exact ⟨u, rfl, h⟩
  | fault r =>
    rw [hstep] at h
    cases h
  | refused r =>
    rw [hstep] at h
    cases h

/-- From a stopped state there is only the run of no steps (R116). -/
theorem eq_of_run_of_stopped {k : Nat} {s t : State} (hstop : s.running = false)
    (h : Host.Core.run Sys2Proof.core k s = .next t) : t = s := by
  cases k with
  | zero =>
    cases h
    rfl
  | succ k =>
    obtain ⟨u, hstep, -⟩ := run_succ h
    cases hstop.symm.trans (running_of_step hstep)

/-- A step that a run without a fault goes through committed. -/
theorem commits_of_run {k : Nat} {s t u : State} (hstep : step s = .next u)
    (hrun : Host.Core.run Sys2Proof.core k u = .next t) (hfault : t.fault = none) : Commits s u := by
  refine ⟨hstep, ?_⟩
  cases hu : u.fault with
  | none => rfl
  | some f =>
    have hstop : u.running = false := by simp [State.running, hu]
    rw [eq_of_run_of_stopped hstop hrun, hu] at hfault
    cases hfault

/-! ### The program order from equal views -/

theorem seqStep_of_le {s : State} (hrun : s.running = true) (hbound : s.memSize ≤ s.pc.toNat) :
    seqStep s = .next (s.takeFault (.fetchOutOfBounds s.pc)) := by
  rw [seqStep, whileRunning_of_running ((status_running_iff s).2 ((running_iff s).1 hrun))]
  rcases iFetch_cases s.memSize s.imem s.pc with ⟨hin, -⟩ | ⟨-, e⟩
  · exact absurd hbound (Nat.not_le.2 hin)
  · rw [e]
    rfl

/-- One instruction of the program order depends on the program's view alone. -/
theorem seqStep_congr {a b u : State} (hview : programView a = programView b) (h : seqStep a = .next u) :
    ∃ v, seqStep b = .next v ∧ programView u = programView v := by
  obtain ⟨hstatus, -⟩ := whileRunning_next h
  have hrun : a.running = true := (running_iff a).2 ((status_running_iff a).1 hstatus)
  obtain ⟨harch, hpcs⟩ := programView_eq_iff.1 hview
  have hpc := hpcs hrun
  have hrunB : b.running = true := (running_congr harch).symm.trans hrun
  rcases lt_or_ge a.pc.toNat a.memSize with hbound | hbound
  · rw [seqStep_of_lt hrun hbound] at h
    cases h
    rw [memSize_congr harch, hpc] at hbound
    refine ⟨_, seqStep_of_lt hrunB hbound, ?_⟩
    rw [imem_congr harch, hpc]
    exact programView_effect_congr harch hpc _
  · rw [seqStep_of_le hrun hbound] at h
    cases h
    rw [memSize_congr harch, hpc] at hbound
    refine ⟨_, seqStep_of_le hrunB hbound, programView_of_stopped ?_ rfl⟩
    rw [archView_takeFault, archView_takeFault, harch, hpc]

/-! ### The empty pipeline stands for its own state -/

theorem afterEXMEM_of_empty {s : State} (h : PipelineEmpty s) : afterEXMEM s = s := by
  obtain ⟨-, -, hexmem, hmemwb, -⟩ := h
  rw [afterEXMEM_of_noop hexmem, afterMEMWB_of_noop hmemwb]

theorem programView_inOrder_of_empty {s : State} (h : PipelineEmpty s) : programView (inOrder s) = programView s := by
  have hafter := afterEXMEM_of_empty h
  obtain ⟨hifid, hidex, hexmem, -, -⟩ := h
  rw [inOrder_of_straight (not_takenBranch_of_noop hexmem) (hidex ▸ branchesIn_noopW _) (hifid ▸ branchesIn_noopW _)]
  refine programView_eq_iff.2 ⟨?_, fun _ => rfl⟩
  rw [archView_setPc, afterIFID_eq, hifid, archView_completeNext_noopW, archView_afterIDEX_of_noop hidex, hafter]

theorem running_of_empty {s : State} (h : PipelineEmpty s) (hfault : s.fault = none) : s.running = true := by
  obtain ⟨-, -, -, -, hwbend⟩ := h
  refine (running_iff s).2 ⟨hfault, ?_⟩
  rw [State.halted, hwbend]
  decide

/-! ### The cycle that halts -/

/-- `u` has stopped as `t` has: the same registers, and the same data memory but for the word that the SW behind the
HALT has stored, then in MEM/WB (R105). -/
def HaltedAlike (u t : State) : Prop :=
  u.status = .halted ∧ u.regs = t.regs ∧ ((decode t.memwb.instr).memWrite = false → u.dmem = t.dmem) ∧
    ∀ a : Nat, ((decode t.memwb.instr).memWrite = true → a ≠ t.memwb.writeData.toNat) → u.dmem.read a = t.dmem.read a

/-- A committed cycle moves an SW and its address from EX/MEM to MEM/WB, and nothing else that stores (R133, R173). -/
theorem commits_memwb_store {s t : State} (h : Commits s t) :
    (decode t.memwb.instr).memWrite = (decode s.exmem.instr).memWrite ∧
      ((decode s.exmem.instr).memWrite = true → t.memwb.writeData = s.exmem.aluResult) := by
  obtain ⟨-, -, hinstr, -⟩ := Halt.commits_moves h
  refine ⟨by rw [hinstr, memWrite_flushAdjust], fun hstore => ?_⟩
  obtain ⟨-, hmem, -⟩ := commits_stages h
  have htaken : takenBranch s = false := Halt.not_takenBranch_of_not_isBranch (by
    obtain ⟨a, b, off, hsw⟩ := (memWrite_iff _).1 hstore
    rw [hsw]
    rfl)
  rw [flushAdjust_of_not_taken s htaken] at hmem
  rcases memStage_cases s with ⟨hload, -, -⟩ | ⟨-, -, e⟩ | ⟨-, hother, -⟩ | ⟨-, -, e⟩
  · cases (Frames.memWrite_eq_false_of_memRead hload).symm.trans hstore
  · rw [(Prod.mk.inj (Except.ok.inj (hmem.symm.trans e))).1]
  · cases hother.symm.trans hstore
  · cases e.symm.trans hmem

/-- When a HALT retires the program order has stopped behind it, with the registers that the cycle commits and the data
memory from before the cycle. -/
theorem archView_inOrder_of_halt {s t : State} (h : Commits s t) (hhalt : (decode s.memwb.instr).isHalt = true) :
    archView (inOrder s) = archView (t.setDmem s.dmem) := by
  have hview := archView_afterMEMWB h
  have hstop : (afterMEMWB s).running = false := by
    rw [running_congr (b := t.setDmem s.dmem) hview]
    exact (running_of_commits h).trans (by rw [hhalt]; rfl)
  have hafter : afterEXMEM s = afterMEMWB s := ifRunning_of_stopped hstop _
  rw [archView_inOrder_of_stopped (hafter ▸ hstop), hafter, hview]

theorem haltedAlike_of_commits {s t x : State} (h : Commits s t) (hwf : s.dmem.wf)
    (hhalt : (decode s.memwb.instr).isHalt = true) (hx : archView x = archView (inOrder s)) : HaltedAlike x t := by
  have hview : archView x = archView (t.setDmem s.dmem) := hx.trans (archView_inOrder_of_halt h hhalt)
  have hdmem : x.dmem = s.dmem := dmem_congr (b := t.setDmem s.dmem) hview
  have hhalted : x.halted = true :=
    (halted_congr (b := t.setDmem s.dmem) hview).trans ((halted_of_commits h).trans hhalt)
  have hfault : x.fault = none := (fault_congr (b := t.setDmem s.dmem) hview).trans h.2
  obtain ⟨hstore, haddress⟩ := commits_memwb_store h
  refine ⟨(status_halted_iff x).2 ⟨hfault, hhalted⟩, regs_congr (b := t.setDmem s.dmem) hview, fun hno => ?_,
    fun a hother => ?_⟩
  · rw [hdmem, dmem_of_commits h (hstore.symm.trans hno)]
  · rw [hdmem, Frames.onlyAStoreInMemChangesDataMemory s t hwf h a, if_neg]
    rintro ⟨hwrite, rfl⟩
    exact hother (hstore.trans hwrite) (by rw [haddress hwrite])

/-! ### The run -/

/-- A run that halts, seen from any of its running states: the program order goes on from there and halts alike. -/
theorem exists_seqRun_haltedAlike {t : State} (hhalted : t.status = .halted) (k : Nat) :
    ∀ {s x : State}, HazardInv s → StorageInv s → s.running = true → programView x = programView (inOrder s) →
      Host.Core.run Sys2Proof.core k s = .next t → ∃ n u, seqRun n x = .next u ∧ HaltedAlike u t := by
  obtain ⟨hfault, hhaltedT⟩ := (status_halted_iff t).1 hhalted
  induction k with
  | zero =>
    intro s x hinv hstorage hrunning hx hrun
    cases hrun
    cases ((running_iff t).1 hrunning).2.symm.trans hhaltedT
  | succ k ih =>
    intro s x hinv hstorage hrunning hx hrun
    obtain ⟨v, hstep, hrest⟩ := run_succ hrun
    have h := commits_of_run hstep hrest hfault
    have hrunV := running_of_commits h
    cases hhalt : (decode s.memwb.instr).isHalt with
    | true =>
      rw [hhalt] at hrunV
      rw [eq_of_run_of_stopped hrunV hrest]
      obtain ⟨-, ⟨-, hwf, -, -⟩, -⟩ := hstorage
      exact ⟨0, x, rfl, haltedAlike_of_commits h hwf hhalt (programView_eq_iff.1 hx).1⟩
    | false =>
      rw [hhalt] at hrunV
      have hstorageV := Storage.storageInvariantKept s v hstorage hstep
      have hgo := fun {x : State} (hx : programView x = programView (inOrder v)) =>
        ih (hazardInv_of_commits h) hstorageV hrunV hx hrest
      have hrefines : Refines s v :=
        everyCycleRefinesProgramOrder s v hinv h (by simp [hhalt])
      rw [Refines] at hrefines
      split at hrefines
      · obtain ⟨u, hseq, hview⟩ := hrefines
        obtain ⟨y, hseqX, hy⟩ := seqStep_congr hx.symm hseq
        obtain ⟨n, w, hn, hw⟩ := hgo (hy.symm.trans hview.symm)
        exact ⟨n + 1, w, by rw [seqRun, hseqX]; exact hn, hw⟩
      · exact hgo (hx.trans hrefines.symm)

/-- Settles O49: reset meets both invariants, and its empty pipeline stands for its own state. -/
theorem haltedRunAgreesWithProgramOrder : Obligations.HaltedRunAgreesWithProgramOrder := by
  intro memSize image s hload k t hrun hhalted
  have hinv := Reset.hazardInvariantAtReset.2 memSize image s hload
  have hstorage := Reset.storageInvariantAtReset.2 memSize image s hload
  obtain ⟨-, -, rfl⟩ := Reset.load_eq_some hload
  have hempty : PipelineEmpty { State.reset with
      memSize := memSize, imem := Memory.ofImage image, dmem := Memory.ofImage image } := ⟨rfl, rfl, rfl, rfl, rfl⟩
  exact exists_seqRun_haltedAlike hhalted k hinv hstorage (running_of_empty hempty rfl)
    (programView_inOrder_of_empty hempty).symm hrun

end Sys2Proof.Proofs.HaltedRun

/-! Proofs. One instruction alone in the pipeline (R201, R221): five committed cycles from an empty pipeline carry the
word at `pc` through the five stages, and the state that the word completes in is the one that program order gives it. -/

namespace Sys2Proof.Proofs.EmptyPipeline

open Sys2Proof Sys2Proof.Machine Sys2Proof.Safety Sys2Proof.Laws
open Sys2Proof.Proofs.CommittedCycle Sys2Proof.Proofs.ProgramOrder Sys2Proof.Proofs.Refinement
open Sys2Proof.Proofs.HaltedRun

/-! ### Runs of committed cycles -/

theorem run_succ_of_step {k : Nat} {s t : State} (h : step s = .next t) :
    Host.Core.run Sys2Proof.core (k + 1) s = Host.Core.run Sys2Proof.core k t := by
  simp only [Host.Core.run, core_step, h]

/-- Every cycle of a run of four that ends fault-free committed. -/
theorem commits_of_run_four {s t : State} (h : Host.Core.run Sys2Proof.core 4 s = .next t) (hfault : t.fault = none) :
    ∃ t₁ t₂ t₃, Commits s t₁ ∧ Commits t₁ t₂ ∧ Commits t₂ t₃ ∧ Commits t₃ t := by
  obtain ⟨t₁, hstep₁, hrun₁⟩ := run_succ h
  obtain ⟨t₂, hstep₂, hrun₂⟩ := run_succ hrun₁
  obtain ⟨t₃, hstep₃, hrun₃⟩ := run_succ hrun₂
  obtain ⟨t₄, hstep₄, hrun₄⟩ := run_succ hrun₃
  cases hrun₄
  exact ⟨t₁, t₂, t₃, commits_of_run hstep₁ hrun₁ hfault, commits_of_run hstep₂ hrun₂ hfault,
    commits_of_run hstep₃ hrun₃ hfault, hstep₄, hfault⟩

/-! ### A word behind no-ops -/

/-- No-ops in ID/EX, EX/MEM and MEM/WB: nothing is ahead of the word in IF/ID. -/
structure NothingAhead (s : State) : Prop where
  idex : s.idex.instr = noopW
  exmem : s.exmem.instr = noopW
  memwb : s.memwb.instr = noopW

theorem not_storesBehindHalt_of_noop {s : State} (h : s.memwb.instr = noopW) : ¬ storesBehindHalt s := by
  rintro ⟨hhalt, -⟩
  rw [h] at hhalt
  exact absurd hhalt (by decide)

theorem loadUseStall_of_noop {s : State} (h : s.idex.instr = noopW) : loadUseStall s.ifid s.idex = false := by
  rw [loadUseStall, h, decode_noopW]
  rfl

theorem archView_afterIDEX_of_nothingAhead {s : State} (h : NothingAhead s) : archView (afterIDEX s) = archView s := by
  rw [archView_afterIDEX_of_noop h.idex, afterEXMEM_of_noop h.exmem, afterMEMWB_of_noop h.memwb]

/-- Without a flush each word moves one latch on. -/
theorem moves_of_not_taken {s t : State} (h : Commits s t) (htaken : takenBranch s = false) :
    t.exmem.instr = s.idex.instr ∧ t.memwb.instr = s.exmem.instr := by
  obtain ⟨-, hexmem, hmemwb, -⟩ := Halt.commits_moves h
  rw [flushAdjust_of_not_taken s htaken] at hexmem hmemwb
  exact ⟨hexmem, hmemwb⟩

/-- The first cycle from an empty pipeline fetches the word at `pc` and changes nothing that a program sees. -/
theorem nothingAhead_of_empty {s t : State} (hempty : PipelineEmpty s) (h : Commits s t) :
    NothingAhead t ∧ archView t = archView s ∧ t.pc = nextAddr s.pc ∧
      t.ifid = { instr := s.imem.read s.pc.toNat, pcPlus1 := nextAddr s.pc } := by
  have hafter := afterEXMEM_of_empty hempty
  obtain ⟨hifid, hidex, hexmem, hmemwb, -⟩ := hempty
  have htaken := not_takenBranch_of_noop hexmem
  obtain ⟨hexmemT, hmemwbT⟩ := moves_of_not_taken h htaken
  obtain ⟨-, hpc, hfetched, hidexT, -⟩ := commits_flows h htaken (loadUseStall_of_noop hidex)
  have hahead : NothingAhead t := ⟨hidexT.trans hifid, hexmemT.trans hidex, hmemwbT.trans hexmem⟩
  have hview := archView_afterMEMWB_next h (not_storesBehindHalt_of_noop hmemwb)
  rw [afterMEMWB_of_noop hahead.memwb, hafter] at hview
  exact ⟨hahead, hview, hpc, hfetched⟩

/-! ### The walk of that word from IF/ID to WB/END -/

section Walk

variable {s t u v w : State} (hahead : NothingAhead s) (hinv : HazardInv s) (hst : Commits s t) (htu : Commits t u)
include hahead hst

theorem walk_second : t.exmem.instr = noopW ∧ t.memwb.instr = noopW ∧
    t.idex.instr = s.ifid.instr ∧ t.idex.pcPlus1 = s.ifid.pcPlus1 := by
  have htaken := not_takenBranch_of_noop hahead.exmem
  obtain ⟨hexmem, hmemwb⟩ := moves_of_not_taken hst htaken
  obtain ⟨-, -, -, hinstr, hpcPlus1⟩ := commits_flows hst htaken (loadUseStall_of_noop hahead.idex)
  exact ⟨hexmem.trans hahead.idex, hmemwb.trans hahead.exmem, hinstr, hpcPlus1⟩

include hinv htu

/-- The third cycle resolves a BEQ (R131). -/
theorem walk_third_branch (hrun : s.running = true) :
    takenBranch u = branchesIn s.ifid.instr s ∧
      u.exmem.branchTarget = branchTarget s.ifid.pcPlus1 (imm16 s.ifid.instr) := by
  obtain ⟨hexmem, -, hinstr, hpcPlus1⟩ := walk_second hahead hst
  have htaken := not_takenBranch_of_noop hexmem
  have hinvT := hazardInv_of_commits hst
  have hview : archView (afterEXMEM t) = archView s :=
    (archView_afterEXMEM_next hst hinv (not_storesBehindHalt_of_noop hahead.memwb)
      (not_takenBranch_of_noop hahead.exmem)).trans (archView_afterIDEX_of_nothingAhead hahead)
  refine ⟨?_, by rw [branchTarget_next htu hinvT htaken, hinstr, hpcPlus1]⟩
  rw [takenBranch_next htu hinvT ((running_congr hview).trans hrun) htaken, hinstr, branchesIn_congr hview]

/-- The fifth cycle retires the word: what a program sees then, but for the memory work of the word behind, is the
word's completion. -/
theorem walk_fifth (huv : Commits u v) (hvw : Commits v w) :
    archView (w.setDmem v.dmem) = archView (afterIFID s) := by
  obtain ⟨hexmem, hmemwb, -, -⟩ := walk_second hahead hst
  have htaken := not_takenBranch_of_noop hexmem
  obtain ⟨-, hmemwbU⟩ := moves_of_not_taken htu htaken
  calc archView (w.setDmem v.dmem) = archView (afterMEMWB v) := (archView_afterMEMWB hvw).symm
    _ = archView (afterEXMEM u) :=
      archView_afterMEMWB_next huv (not_storesBehindHalt_of_noop (hmemwbU.trans hexmem))
    _ = archView (afterIDEX t) :=
      archView_afterEXMEM_next htu (hazardInv_of_commits hst) (not_storesBehindHalt_of_noop hmemwb) htaken
    _ = archView (afterIFID s) :=
      archView_afterIDEX_flows hst hinv (not_storesBehindHalt_of_noop hahead.memwb)
        (not_takenBranch_of_noop hahead.exmem) (loadUseStall_of_noop hahead.idex)

end Walk

/-- Completing the word just fetched is its effect on the state it was fetched in. -/
theorem archView_afterIFID_of_fetched {s t : State} (hrun : s.running = true) (hahead : NothingAhead t)
    (hview : archView t = archView s) {w : Word} (hifid : t.ifid = { instr := w, pcPlus1 := nextAddr s.pc }) :
    archView (afterIFID t) = archView (effect w s) := by
  have haddress : nextAddr s.pc - 1#32 = s.pc := BitVec.add_sub_cancel s.pc 1#32
  rw [afterIFID_eq, hifid,
    archView_completeNext_congr ((archView_afterIDEX_of_nothingAhead hahead).trans hview),
    completeNext_of_running _ _ hrun, haddress]
  rfl

/-! ### Where the fetch goes on -/

section GoesOn

variable {s t₁ t₂ t₃ t : State} (hempty : PipelineEmpty s) (h₁ : Commits s t₁) (h₂ : Commits t₁ t₂)
include hempty h₁ h₂

/-- The second cycle fetches the word behind the first. -/
theorem second_fetches_nextPc (hstraight : branchesIn (s.imem.read s.pc.toNat) s = false) :
    t₂.pc = nextAddr (nextPc (s.imem.read s.pc.toNat) s) ∧
      t₂.ifid =
        { instr := s.imem.read (nextPc (s.imem.read s.pc.toNat) s).toNat
          pcPlus1 := nextAddr (nextPc (s.imem.read s.pc.toNat) s) } := by
  obtain ⟨hahead, -, hpc₁, -⟩ := nothingAhead_of_empty hempty h₁
  obtain ⟨-, hpc₂, hifid₂, -, -⟩ :=
    commits_flows h₂ (not_takenBranch_of_noop hahead.exmem) (loadUseStall_of_noop hahead.idex)
  rw [hpc₁, (commits_storage h₁).2] at hifid₂
  rw [hpc₁] at hpc₂
  rw [nextPc, hstraight]
  exact ⟨hpc₂, hifid₂⟩

/-- The third cycle resolves a taken BEQ, and the fourth flushes and fetches its target (R173). -/
theorem fourth_fetches_nextPc (h₃ : Commits t₂ t₃) (h₄ : Commits t₃ t) (hrun : s.running = true)
    (hbranches : branchesIn (s.imem.read s.pc.toNat) s = true) :
    t.pc = nextAddr (nextPc (s.imem.read s.pc.toNat) s) ∧
      t.ifid =
        { instr := s.imem.read (nextPc (s.imem.read s.pc.toNat) s).toNat
          pcPlus1 := nextAddr (nextPc (s.imem.read s.pc.toNat) s) } := by
  obtain ⟨hahead, hview₁, -, hifid₁⟩ := nothingAhead_of_empty hempty h₁
  obtain ⟨htaken₃, htarget⟩ :=
    walk_third_branch hahead (hazardInv_of_commits h₁) h₂ h₃ ((running_congr hview₁).trans hrun)
  rw [hifid₁, branchesIn_congr hview₁, hbranches] at htaken₃
  obtain ⟨-, hpc, hifid, -, -⟩ := commits_flushed h₄ htaken₃
  rw [htarget, hifid₁] at hpc hifid
  rw [(commits_storage h₃).2, (commits_storage h₂).2, (commits_storage h₁).2] at hifid
  rw [nextPc, hbranches]
  exact ⟨hpc, hifid⟩

end GoesOn

/-- Settles O51: the first cycle fetches the word, the walk through the other four completes it, and execution goes on
at the word's next `pc`. -/
theorem emptyPipelineRunsTheInstructionAtPc : Obligations.EmptyPipelineRunsTheInstructionAtPc := by
  intro s t v hstatus hempty hrun4 htv
  have hrun : s.running = true := (running_iff s).2 ((status_running_iff s).1 hstatus)
  obtain ⟨hfaultT, -⟩ := (running_iff t).1 (running_of_step htv.1)
  obtain ⟨t₁, t₂, t₃, h₁, h₂, h₃, h₄⟩ := commits_of_run_four hrun4 hfaultT
  obtain ⟨hahead, hview₁, -, hifid₁⟩ := nothingAhead_of_empty hempty h₁
  have hretired : archView (v.setDmem t.dmem) = archView (effect (s.imem.read s.pc.toNat) s) :=
    (walk_fifth hahead (hazardInv_of_commits h₁) h₂ h₃ h₄ htv).trans
      (archView_afterIFID_of_fetched hrun hahead hview₁ hifid₁)
  have hfault : (effect (s.imem.read s.pc.toNat) s).fault = none := (fault_congr hretired).symm.trans htv.2
  refine ⟨_, exec_decode _ s, hfault, dmem_congr (a := v.setDmem t.dmem) hretired,
    regs_congr (a := v.setDmem t.dmem) hretired, halted_congr (a := v.setDmem t.dmem) hretired, ?_, ?_⟩
  · intro hstraight hhalt
    obtain ⟨hpc, hifid⟩ := second_fetches_nextPc hempty h₁ h₂ hstraight
    rw [effect_pc hfault hhalt]
    exact ⟨t₂, by rw [run_succ_of_step h₁.1, run_succ_of_step h₂.1]; rfl, hifid, hpc⟩
  · intro hbranches
    obtain ⟨hpc, hifid⟩ := fourth_fetches_nextPc hempty h₁ h₂ h₃ h₄ hrun hbranches
    have hhalt : (decode (s.imem.read s.pc.toNat)).isHalt = false := by
      obtain ⟨a, b, off, hbeq⟩ := (isBranch_iff _).1 (Bool.and_eq_true_iff.1 hbranches).1
      rw [hbeq]
      rfl
    rw [effect_pc hfault hhalt]
    exact ⟨hifid, hpc⟩

end Sys2Proof.Proofs.EmptyPipeline

/-! Proofs. The five stages of one cycle (R125 to R137): what each writes into its latch for the instruction that the
decoder reads there, what a faulting cycle can have raised, and that every step keeps the hazard invariant. -/

namespace Sys2Proof.Proofs.PipelineStages

open Sys2Proof Sys2Proof.Machine Sys2Proof.Safety Sys2Proof.Laws
open Sys2Proof.Proofs.CommittedCycle

/-! ### The hazard invariant -/

/-- A cycle that faults changes `fault` alone, which the hazard invariant does not read (R117). -/
theorem hazardInv_takeFault {s : State} (h : HazardInv s) (f : MachineFault) : HazardInv (s.takeFault f) := h

/-- Settles O43: a cycle that faults leaves the latches and registers that the invariant is about, and a cycle that
commits establishes it anew. -/
theorem hazardInvariantKept : Obligations.HazardInvariantKept := by
  intro s t hinv hstep
  rcases (step_next hstep).2 with ⟨f, -, rfl⟩ | hcommit
  · exact hazardInv_takeFault hinv f
  · exact hazardInv_of_commits ⟨hstep, (CycleDriver.runStages_ok_cycles hcommit).1⟩

/-! ### WB (R135, R136) -/

theorem wbStage_ok {t : State} {wbend : WBEND} {regs : Vector Word 8} (h : wbStage t = .ok (wbend, regs)) :
    wbend = { instr := t.memwb.instr, writeData := t.memwb.writeData } ∧
      (∀ d, (decode t.memwb.instr).dest = some d → ∃ hd : d < 8, regs = t.regs.set d t.memwb.writeData hd) ∧
      ((decode t.memwb.instr).dest = none → regs = t.regs) := by
  rcases wbStage_cases t with ⟨hnone, e⟩ | ⟨d, hsome, ⟨hd, e⟩ | ⟨-, e⟩⟩
  · cases e.symm.trans h
    exact ⟨rfl, by simp [hnone], fun _ => rfl⟩
  · cases e.symm.trans h
    refine ⟨rfl, fun d' hsome' => ?_, by simp [hsome]⟩
    cases hsome.symm.trans hsome'
    exact ⟨hd, rfl⟩
  · cases e.symm.trans h

/-- WB/END takes MEM/WB's word and value whatever the opcode, in a flush cycle too (R136, R173). -/
theorem commits_wbend {s t : State} (h : Commits s t) :
    t.wbend = { instr := s.memwb.instr, writeData := s.memwb.writeData } := by
  obtain ⟨hwb, -, -⟩ := commits_stages h
  obtain ⟨hwbend, -, -⟩ := wbStage_ok hwb
  rw [hwbend, flushAdjust_memwb]

/-- Settles O28: WB's write is the value that WB/END then holds, which is MEM/WB's. -/
theorem onlyWritebackChangesRegisters : Obligations.OnlyWritebackChangesRegisters := by
  intro s t h
  have hwbend := commits_wbend h
  refine ⟨fun r => ?_, by rw [hwbend], by rw [hwbend]⟩
  rw [commits_reg h, hwbend]
  exact if_congr (forwardsTo_iff _ r) rfl rfl

/-! ### MEM (R133, R134) -/

theorem memStage_ok {t : State} {memwb : MEMWB} {dmem : Memory} (h : memStage t = .ok (memwb, dmem)) :
    ((decode t.exmem.instr).memRead = true → memwb.writeData = t.dmem.read t.exmem.aluResult.toNat) ∧
      ((decode t.exmem.instr).memRead = false → memwb.writeData = t.exmem.aluResult) ∧
      ((decode t.exmem.instr).memWrite = true → dmem = t.dmem.write t.exmem.aluResult.toNat t.exmem.readRegB) ∧
      ((decode t.exmem.instr).memWrite = false → dmem = t.dmem) := by
  rcases memStage_cases t with ⟨hload, -, e⟩ | ⟨hstore, -, e⟩ | ⟨hload, hstore, e⟩ | ⟨-, -, e⟩
  · have hstore := Frames.memWrite_eq_false_of_memRead hload
    cases e.symm.trans h
    simp [hload, hstore]
  · have hload : (decode t.exmem.instr).memRead = false := by
      obtain ⟨a, b, off, hdecode⟩ := (memWrite_iff _).1 hstore
      rw [hdecode]
      rfl
    cases e.symm.trans h
    simp [hload, hstore]
  · cases e.symm.trans h
    simp [hload, hstore]
  · cases e.symm.trans h

/-! ### EX (R129 to R132) -/

/-- The ALU result is the one that the decoded instruction selects (R130). -/
theorem exStage_aluResult_of_decode {t : State} {i : Instr} (h : decode t.idex.instr = i) :
    (exStage t).aluResult = alu i.aluSel (operandA t) (operandB t) t.idex.offset (exBranchTarget t) := by
  rw [← h]
  rfl

/-- `eq` is set exactly by a BEQ whose resolved operands are equal (R131). -/
theorem exStage_eq_iff (t : State) :
    (exStage t).eq = true ↔ (∃ a b off, decode t.idex.instr = .beq a b off) ∧ operandA t = operandB t :=
  Bool.and_eq_true_iff.trans (and_congr (isBranch_iff _) (Branch.eq32_iff _ _))

/-! ### ID (R127) -/

/-- An unstalled ID reads the registers as they are before WB's write of the same cycle (R127, R137). -/
theorem commits_decoded {s t : State} (h : Commits s t) (htaken : takenBranch s = false)
    (hstall : loadUseStall s.ifid s.idex = false) :
    t.idex = { instr := s.ifid.instr
               pcPlus1 := s.ifid.pcPlus1
               readRegA := s.reg (regA s.ifid.instr)
               readRegB := s.reg (regB s.ifid.instr)
               offset := sext16 (imm16 s.ifid.instr) } := by
  have hstalls : stalls s = false := hstall
  rw [commits_idex h, flushAdjust_of_not_taken s htaken, hstalls]
  rfl

/-! ### The whole cycle -/

/-- Settles O22, stage by stage from IF to WB. -/
theorem stepRunsTheDecodedInstructions : Obligations.StepRunsTheDecodedInstructions := by
  intro s t h htaken
  have hexmem := commits_exmem h
  obtain ⟨hwb, hmem, -⟩ := commits_stages h
  rw [flushAdjust_of_not_taken s htaken] at hexmem hwb hmem
  obtain ⟨hload, hresult, hstore, hdmem⟩ := memStage_ok hmem
  obtain ⟨hwbend, hwrite, hregs⟩ := wbStage_ok hwb
  rw [hexmem]
  refine ⟨fun hstall => ?_, rfl, rfl, rfl, exStage_eq_iff s,
    fun _ _ _ hadd => exStage_aluResult_of_decode hadd, fun _ _ _ hnor => exStage_aluResult_of_decode hnor,
    fun _ _ _ hlw => exStage_aluResult_of_decode hlw, fun _ _ _ hsw => exStage_aluResult_of_decode hsw,
    fun _ _ _ hbeq => exStage_aluResult_of_decode hbeq, ?_, Halt.memStage_instr hmem,
    fun a b off hlw => hload ((memRead_iff _).2 ⟨a, b, off, hlw⟩), hresult,
    fun a b off hsw => hstore ((memWrite_iff _).2 ⟨a, b, off, hsw⟩), hdmem, hwbend, hwrite, hregs,
    fun hhalt => (Halt.halted_iff t).2 (by rw [hwbend]; exact hhalt)⟩
  · obtain ⟨hbound, hpc, hifid, -, -⟩ := commits_flows h htaken hstall
    exact ⟨hbound, hifid, hpc, commits_decoded h htaken hstall⟩
  · rintro (hjalr | hhalt | hnoop)
    · exact exStage_aluResult_of_decode hjalr
    · exact exStage_aluResult_of_decode hhalt
    · exact exStage_aluResult_of_decode hnoop

/-! ### IF: the word placed where the next cycle fetches (R125) -/

/-- The flush does not read instruction memory (R173). -/
theorem flushAdjust_setImem (s : State) (m : Memory) : flushAdjust (s.setImem m) = (flushAdjust s).setImem m := by
  have htaken : takenBranch (s.setImem m) = takenBranch s := rfl
  cases h : takenBranch s <;> simp only [flushAdjust, htaken, h] <;> rfl

/-- Settles O23: placing the word moves neither the hazard decision nor the fetch address, so the fetch reads it back. -/
theorem storedFetchWordIsFetchedNext : Obligations.StoredFetchWordIsFetchedNext := by
  intro s nbits w t hwf hstall h
  have hflush : flushAdjust (s.withFetchWord nbits w) = (flushAdjust s).setImem (s.withFetchWord nbits w).imem :=
    flushAdjust_setImem s _
  have haddress : fetchAddress (s.withFetchWord nbits w) = fetchAddress s := by rw [fetchAddress, hflush]; rfl
  obtain ⟨-, -, hifid⟩ := commits_fetch h (by rw [hflush]; exact hstall)
  rw [hifid, haddress]
  exact read_write_same hwf _ _

/-! ### The stalled cycle (R126, R128) -/

/-- All that the stages of a faulting cycle can have raised: IF's fault only in an unstalled cycle (R126, R133, R135). -/
theorem runStages_error {s t : State} {f : MachineFault} (h : runStages s t = .error f) :
    (∃ d, f = .regIndexOutOfBounds d) ∨ f = .dataAddressOutOfBounds t.exmem.aluResult ∨
      (stalls t = false ∧ f = .fetchOutOfBounds t.pc) := by
  unfold runStages at h
  split at h
  next g hwb =>
    cases h
    rcases wbStage_cases t with ⟨-, e⟩ | ⟨d, -, ⟨_, e⟩ | ⟨-, e⟩⟩ <;> cases e.symm.trans hwb
    exact .inl ⟨d, rfl⟩
  next wbend regs hwb =>
    split at h
    next g hmem =>
      cases h
      rcases memStage_cases t with ⟨-, -, e⟩ | ⟨-, -, e⟩ | ⟨-, -, e⟩ | ⟨-, -, e⟩ <;> cases e.symm.trans hmem
      exact .inr (.inl rfl)
    next memwb dmem hmem =>
      split at h
      next g hif =>
        cases h
        rcases ifStage_cases t (stalls t) with ⟨-, e⟩ | ⟨-, -, e⟩ | ⟨hstall, -, e⟩ <;> cases e.symm.trans hif
        exact .inr (.inr ⟨hstall, rfl⟩)
      next pc ifid hif => cases h

theorem not_fetchOutOfBounds_of_stalls {s t : State} {f : MachineFault} (h : runStages s t = .error f)
    (hstall : stalls t = true) (a : Word) : f ≠ .fetchOutOfBounds a := by
  rcases runStages_error h with ⟨d, rfl⟩ | rfl | ⟨hunstalled, -⟩
  · simp
  · simp
  · cases hunstalled.symm.trans hstall

/-- Settles O31: a stalled cycle that faults took a fault of MEM or WB on the state before it; one that commits holds the
front end. -/
theorem stalledCycleHoldsTheFrontEnd : Obligations.StalledCycleHoldsTheFrontEnd := by
  intro s t hstall hstep
  have htaken := Storage.not_takenBranch_of_stalls hstall
  refine ⟨htaken, ?_⟩
  rcases (step_next hstep).2 with ⟨f, herror, rfl⟩ | hcommit
  · refine ⟨rfl, rfl, fun a hfetch => ?_, by simp⟩
    exact not_fetchOutOfBounds_of_stalls herror hstall a (Option.some.inj hfetch)
  · obtain ⟨hnone, -⟩ := CycleDriver.runStages_ok_cycles hcommit
    rw [flushAdjust_of_not_taken s htaken] at hstall
    obtain ⟨hpc, hifid, hidex⟩ := commits_stalled ⟨hstep, hnone⟩ htaken hstall
    exact ⟨hpc, hifid, by simp [hnone], fun _ => hidex⟩

end Sys2Proof.Proofs.PipelineStages

/-! Proofs. The hazard unit (R150 to R153): the registers that each opcode reads, the load-use stall as a fact about the
words in ID/EX and IF/ID, and the single bubble that ends it. -/

namespace Sys2Proof.Proofs.HazardUnit

open Sys2Proof Sys2Proof.Machine Sys2Proof.Safety Sys2Proof.Laws
open Sys2Proof.Proofs.CommittedCycle

/-! ### The read sets (R150) -/

/-- The fields that a word reads are chosen by its opcode (R68, R150). -/
theorem readsReg_iff_of_decode {w : Word} {i : Instr} (h : decode w = i) (r : RegIdx) :
    readsReg w r = true ↔ (i.readsA = true ∧ regA w = r) ∨ (i.readsB = true ∧ regB w = r) := by
  simp [readsReg, h]

/-- An ADD, NOR, SW or BEQ reads both of its fields, an LW its base alone, and the other opcodes nothing. -/
theorem readsReg_iff (w : Word) (r : RegIdx) :
    readsReg w r = true ↔
      (∃ a b d, (decode w = .add a b d ∨ decode w = .nor a b d) ∧ (a = r ∨ b = r)) ∨
      (∃ a b off, decode w = .lw a b off ∧ a = r) ∨
      (∃ a b off, (decode w = .sw a b off ∨ decode w = .beq a b off) ∧ (a = r ∨ b = r)) := by
  rcases decode_cases w with h | h | h | h | h | h | h | h <;>
    simp [readsReg_iff_of_decode h, h, Instr.readsA, Instr.readsB]

/-! ### The stall condition (R151) -/

/-- The register that the hazard unit compares is the destination of the LW in ID/EX. -/
theorem loadUseStall_iff (f : IFID) (x : IDEX) :
    loadUseStall f x = true ↔ ∃ base dst off, decode x.instr = .lw base dst off ∧ readsReg f.instr dst = true := by
  rw [loadUseStall, Bool.and_eq_true_iff, memRead_iff]
  constructor
  · rintro ⟨⟨base, dst, off, hlw⟩, hreads⟩
    obtain ⟨-, rfl, -⟩ := fields_of_decode_lw hlw
    exact ⟨base, regB x.instr, off, hlw, hreads⟩
  · rintro ⟨base, dst, off, hlw, hreads⟩
    obtain ⟨-, rfl, -⟩ := fields_of_decode_lw hlw
    exact ⟨⟨base, regB x.instr, off, hlw⟩, hreads⟩

/-- The hazard decision is that of the latches as they are in a cycle without a flush, and never a stall in a flush cycle
(R111, R174). -/
theorem stalls_flushAdjust_iff (s : State) :
    stalls (flushAdjust s) = true ↔ takenBranch s = false ∧ loadUseStall s.ifid s.idex = true := by
  constructor
  · intro hstall
    have htaken := Storage.not_takenBranch_of_stalls hstall
    rw [flushAdjust_of_not_taken s htaken] at hstall
    exact ⟨htaken, hstall⟩
  · rintro ⟨htaken, hstall⟩
    rw [flushAdjust_of_not_taken s htaken]
    exact hstall

/-- Settles O30: the read sets opcode by opcode, and the stall condition on the latches of a cycle that does not flush. -/
theorem stallExactlyOnLoadUse : Obligations.StallExactlyOnLoadUse :=
  ⟨readsReg_iff, fun s => (stalls_flushAdjust_iff s).trans (and_congr_right' (loadUseStall_iff s.ifid s.idex))⟩

/-! ### The end of the stall (R153) -/

/-- Settles O32: the stalled cycle leaves a bubble in ID/EX, behind which nothing stalls, and a flush does not stall
either. -/
theorem stallLastsOneCycle : Obligations.StallLastsOneCycle := by
  intro s t hstall h
  obtain ⟨htaken, hloadUse⟩ := (stalls_flushAdjust_iff s).1 hstall
  obtain ⟨-, -, hbubble⟩ := commits_stalled h htaken hloadUse
  refine Bool.eq_false_iff.2 fun hagain => ?_
  obtain ⟨-, hloadUseAgain⟩ := (stalls_flushAdjust_iff t).1 hagain
  rw [hbubble, loadUseStall_bubble] at hloadUseAgain
  cases hloadUseAgain

end Sys2Proof.Proofs.HazardUnit

/-! Proofs. How long a run that halts takes (R220): each cycle that fetches in program order adds an instruction, and each
other cycle pays for a load-use pair, for one of a taken BEQ's two, or for the walk of the HALT. -/

namespace Sys2Proof.Proofs.CycleCount

open Sys2Proof Sys2Proof.Machine Sys2Proof.Safety Sys2Proof.Laws
open Sys2Proof.Proofs.CommittedCycle Sys2Proof.Proofs.ProgramOrder Sys2Proof.Proofs.Refinement
open Sys2Proof.Proofs.HaltedRun

/-! ### What the words in flight still cost -/

/-- The word that the next one fetched in program order follows: the one in IF/ID, or no load at all where that one is on
the wrong path of a taken BEQ. -/
def youngest (s : State) : Word :=
  if takenBranch s || branchesIn s.idex.instr (afterEXMEM s) then noopW else s.ifid.instr

/-- The cycles without a fetch in program order that the words in flight are still to cause: one for a load-use pair in
ID/EX and IF/ID, two for a BEQ taken out of IF/ID and one for a BEQ taken out of ID/EX (R151, R173). -/
def owed (s : State) : Nat :=
  if takenBranch s then 0
  else if branchesIn s.idex.instr (afterEXMEM s) then 1
  else (if loadUseStall s.ifid s.idex then 1 else 0) + (if branchesIn s.ifid.instr (afterIDEX s) then 2 else 0)

section Owed

variable {s : State}

theorem youngest_of_takenBranch (h : takenBranch s = true) : youngest s = noopW := by simp [youngest, h]

theorem youngest_of_branch_idex (h : branchesIn s.idex.instr (afterEXMEM s) = true) : youngest s = noopW := by
  simp [youngest, h]

theorem owed_of_takenBranch (h : takenBranch s = true) : owed s = 0 := by simp [owed, h]

theorem owed_of_branch_idex (htaken : takenBranch s = false) (h : branchesIn s.idex.instr (afterEXMEM s) = true) :
    owed s = 1 := by
  simp [owed, htaken, h]

variable (htaken : takenBranch s = false) (hidex : branchesIn s.idex.instr (afterEXMEM s) = false)
include htaken hidex

theorem youngest_of_straight : youngest s = s.ifid.instr := by simp [youngest, htaken, hidex]

theorem owed_of_straight : owed s = (if loadUseStall s.ifid s.idex then 1 else 0) +
    (if branchesIn s.ifid.instr (afterIDEX s) then 2 else 0) := by
  simp [owed, htaken, hidex]

end Owed

/-! ### The terms of the formula, instruction by instruction -/

/-- A word other than an LW is the first of no load-use pair. -/
theorem loadUsePairs_cons_of_not_memRead {w : Word} (h : (decode w).memRead = false) (x : State)
    (l : List (State × Word)) : loadUsePairs ((x, w) :: l) = loadUsePairs l := by
  cases l with
  | nil => rfl
  | cons p rest => simp [loadUsePairs, h]

/-- What `N + L + 2*B` charges for the instructions `l`, executed behind the word `v`; the state beside `v`
is not read. -/
def charge (v : Word) (l : List (State × Word)) : Nat := l.length + loadUsePairs ((State.reset, v) :: l) + 2 * takenBeqs l

theorem charge_nil (v : Word) : charge v [] = 0 := rfl

/-- Two words that are no loads are alike to what is executed behind them. -/
theorem charge_congr {v w : Word} (hv : (decode v).memRead = false) (hw : (decode w).memRead = false)
    (l : List (State × Word)) : charge v l = charge w l := by
  rw [charge, charge, loadUsePairs_cons_of_not_memRead hv, loadUsePairs_cons_of_not_memRead hw]

theorem charge_cons (v w : Word) (x : State) (l : List (State × Word)) :
    charge v ((x, w) :: l) = 1 + (if (decode v).memRead && readsReg w (regB v) then 1 else 0) +
      (if branchesIn w x then 2 else 0) + charge w l := by
  have hpairs : loadUsePairs ((x, w) :: l) = loadUsePairs ((State.reset, w) :: l) := by cases l <;> rfl
  simp only [charge, loadUsePairs, hpairs, takenBeqs, List.countP_cons, List.length_cons]
  split_ifs <;> omega

theorem charge_noopW (l : List (State × Word)) : charge noopW l = l.length + loadUsePairs l + 2 * takenBeqs l := by
  rw [charge, loadUsePairs_cons_of_not_memRead (by decide)]

/-- A run of the program order lists each instruction that it executes. -/
theorem length_executed {n : Nat} {x u : State} (h : seqRun n x = .next u) : (executed n x).length = n := by
  induction n generalizing x with
  | zero => rfl
  | succ n ih =>
    rw [seqRun] at h
    rw [executed]
    cases hstep : seqStep x with
    | next y =>
      rw [hstep] at h
      rw [List.length_cons, ih h]
    | fault r =>
      rw [hstep] at h
      cases h
    | refused r =>
      rw [hstep] at h
      cases h

theorem executed_succ {n : Nat} {x y : State} (h : seqStep x = .next y) :
    executed (n + 1) x = (x, x.imem.read x.pc.toNat) :: executed n y := by
  rw [executed, h]

theorem seqRun_succ {n : Nat} {x y : State} (h : seqStep x = .next y) : seqRun (n + 1) x = seqRun n y := by
  rw [seqRun, h]

/-- A stopped program order goes nowhere. -/
theorem eq_of_seqRun_of_stopped {n : Nat} {x u : State} (hstop : x.running = false) (h : seqRun n x = .next u) :
    u = x := by
  cases n with
  | zero =>
    cases h
    rfl
  | succ n =>
    rw [seqRun] at h
    cases hstep : seqStep x with
    | next y =>
      obtain ⟨hstatus, -⟩ := whileRunning_next hstep
      cases hstop.symm.trans ((running_iff x).2 ((status_running_iff x).1 hstatus))
    | fault r =>
      rw [hstep] at h
      cases h
    | refused r =>
      rw [hstep] at h
      cases h

/-! ### What is behind a running program order -/

/-- Nothing in flight ahead of IF/ID has stopped a program order that still runs. -/
theorem running_afterEXMEM_of_inOrder {s : State} (h : (inOrder s).running = true) : (afterEXMEM s).running = true := by
  cases hrun : (afterEXMEM s).running with
  | true => rfl
  | false => rwa [running_congr (archView_inOrder_of_stopped hrun), hrun] at h

theorem running_of_inOrder {s : State} (h : (inOrder s).running = true) : s.running = true :=
  running_of_ifRunning (running_of_ifRunning (running_afterEXMEM_of_inOrder h))

/-- A cycle hands on a running machine exactly where the instruction in MEM/WB does not stop it. -/
theorem running_next {s t : State} (h : Commits s t) : t.running = (afterMEMWB s).running :=
  (running_congr (b := t.setDmem s.dmem) (archView_afterMEMWB h)).symm

theorem not_isHalt_of_running {s t : State} (h : Commits s t) (hrun : (afterMEMWB s).running = true) :
    (decode s.memwb.instr).isHalt = false := by
  have hnext := running_of_commits h
  rw [running_next h, hrun] at hnext
  simpa using hnext.symm

theorem not_storesBehindHalt_of_running {s t : State} (h : Commits s t) (hrun : (afterMEMWB s).running = true) :
    ¬ storesBehindHalt s := by
  rintro ⟨hhalt, -⟩
  cases (not_isHalt_of_running h hrun).symm.trans hhalt

/-! ### A cycle without a fetch in program order pays one of what is owed -/

/-- The cycle from `s` to `t` leaves one cycle less to pay, and the same word to be followed. -/
def PaysOne (s t : State) : Prop := owed s = owed t + 1 ∧ ∀ l, charge (youngest s) l = charge (youngest t) l

section Pays

variable {s t : State} (h : Commits s t) (hinv : HazardInv s) (hrun : (afterEXMEM s).running = true)
  (htaken : takenBranch s = false)
include h hinv hrun htaken

/-- The stall of a load-use pair is paid, and the BEQ that may be in IF/ID stays owed (R153). -/
theorem paysOne_of_stalled (hstall : loadUseStall s.ifid s.idex = true) : PaysOne s t := by
  obtain ⟨-, hifid, hbubble⟩ := commits_stalled h htaken hstall
  obtain ⟨a, b, off, hlw⟩ := (memRead_iff _).1 (Bool.and_eq_true_iff.1 hstall).1
  have hidexS : branchesIn s.idex.instr (afterEXMEM s) = false := branchesIn_of_not_isBranch _ (by rw [hlw]; rfl)
  have hidexT : branchesIn t.idex.instr (afterEXMEM t) = false :=
    branchesIn_of_not_isBranch _ (by rw [hbubble]; decide)
  have htakenT : takenBranch t = false := (takenBranch_next h hinv hrun htaken).trans hidexS
  have hview := archView_afterIDEX_stalled h hinv
    (not_storesBehindHalt_of_running h (running_of_ifRunning hrun)) htaken hstall
  refine ⟨?_, fun l => ?_⟩
  · rw [owed_of_straight htaken hidexS, owed_of_straight htakenT hidexT, hstall, hbubble, loadUseStall_bubble, hifid,
      branchesIn_congr hview, if_pos rfl, if_neg Bool.false_ne_true]
    omega
  · rw [youngest_of_straight htaken hidexS, youngest_of_straight htakenT hidexT, hifid]

/-- The second of a taken BEQ's two cycles is paid: the next one flushes and fetches the target (R175). -/
theorem paysOne_of_branch_idex (hidex : branchesIn s.idex.instr (afterEXMEM s) = true) : PaysOne s t := by
  have htakenT : takenBranch t = true := (takenBranch_next h hinv hrun htaken).trans hidex
  refine ⟨?_, fun l => ?_⟩
  · rw [owed_of_branch_idex htaken hidex, owed_of_takenBranch htakenT]
  · rw [youngest_of_branch_idex hidex, youngest_of_takenBranch htakenT]

/-- The first of a taken BEQ's two cycles is paid (R175). -/
theorem paysOne_of_branch_ifid (hstall : loadUseStall s.ifid s.idex = false)
    (hidex : branchesIn s.idex.instr (afterEXMEM s) = false)
    (hifid : branchesIn s.ifid.instr (afterIDEX s) = true) : PaysOne s t := by
  obtain ⟨-, -, -, hinstr, -⟩ := commits_flows h htaken hstall
  have htakenT : takenBranch t = false := (takenBranch_next h hinv hrun htaken).trans hidex
  have hview := archView_afterEXMEM_next h hinv
    (not_storesBehindHalt_of_running h (running_of_ifRunning hrun)) htaken
  have hidexT : branchesIn t.idex.instr (afterEXMEM t) = true := by rw [hinstr, branchesIn_congr hview, hifid]
  obtain ⟨a, b, off, hbeq⟩ := (isBranch_iff _).1 (Bool.and_eq_true_iff.1 hifid).1
  refine ⟨?_, fun l => ?_⟩
  · rw [owed_of_straight htaken hidex, owed_of_branch_idex htakenT hidexT, hstall, hifid]
    rfl
  · rw [youngest_of_straight htaken hidex, youngest_of_branch_idex hidexT]
    exact charge_congr (by rw [hbeq]; rfl) (by decide) l

end Pays

/-- A cycle that runs no instruction of a running program order is one of those three. -/
theorem paysOne_of_not_fetchesInOrder {s t : State} (h : Commits s t) (hinv : HazardInv s)
    (hrunO : (inOrder s).running = true) (hidle : fetchesInOrder s = false) : PaysOne s t := by
  have hrun := running_afterEXMEM_of_inOrder hrunO
  have htaken : takenBranch s = false := by
    cases htaken : takenBranch s with
    | false => rfl
    | true => simp [fetchesInOrder, hrunO, htaken] at hidle
  cases hstall : loadUseStall s.ifid s.idex with
  | true => exact paysOne_of_stalled h hinv hrun htaken hstall
  | false =>
    cases hidex : branchesIn s.idex.instr (afterEXMEM s) with
    | true => exact paysOne_of_branch_idex h hinv hrun htaken hidex
    | false =>
      cases hifid : branchesIn s.ifid.instr (afterIDEX s) with
      | true => exact paysOne_of_branch_ifid h hinv hrun htaken hstall hidex hifid
      | false => simp [fetchesInOrder, hrunO, htaken, hstall, hidex, hifid] at hidle

/-! ### A cycle with a fetch in program order owes for the word that it fetches -/

/-- The cycle from `s` to `t` fetches the word at the `pc` of the program-order state `x`: the word is in IF/ID, behind
the word that it follows, with nothing in flight that squashes it, and `x` is what it finds when those ahead are complete. -/
structure FetchedFrom (s t x : State) : Prop where
  bound : x.pc.toNat < x.memSize
  ifid : t.ifid.instr = x.imem.read x.pc.toNat
  idex : t.idex.instr = youngest s
  notTaken : takenBranch t = false
  noBranch : branchesIn t.idex.instr (afterEXMEM t) = false
  ahead : archView (afterIDEX t) = archView x
  paid : owed s = 0

section Fetched

variable {s t : State} (h : Commits s t) (hrun : (afterEXMEM s).running = true)
include h hrun

theorem fetchedFrom_of_flushed (htaken : takenBranch s = true) : FetchedFrom s t (inOrder s) := by
  obtain ⟨hbound, -, hifid, hidex, hexmem⟩ := commits_flushed h htaken
  obtain ⟨hsize, himem⟩ := storageKept_afterEXMEM s
  have hstore := not_storesBehindHalt_of_running h (running_of_ifRunning hrun)
  rw [inOrder_of_takenBranch htaken]
  exact {
    bound := hsize.symm ▸ hbound
    ifid := by rw [hifid, setPc_imem, himem]; rfl
    idex := by rw [hidex, youngest_of_takenBranch htaken]
    notTaken := not_takenBranch_of_noop hexmem
    noBranch := hidex ▸ branchesIn_noopW _
    ahead := archView_afterIDEX_flushed h hstore htaken
    paid := owed_of_takenBranch htaken }

theorem fetchedFrom_of_straight (hinv : HazardInv s) (htaken : takenBranch s = false)
    (hstall : loadUseStall s.ifid s.idex = false) (hidex : branchesIn s.idex.instr (afterEXMEM s) = false)
    (hifid : branchesIn s.ifid.instr (afterIDEX s) = false) : FetchedFrom s t (inOrder s) := by
  obtain ⟨hbound, -, hfetched, hinstr, -⟩ := commits_flows h htaken hstall
  obtain ⟨hsize, himem⟩ := storageKept_afterIFID s
  have hstore := not_storesBehindHalt_of_running h (running_of_ifRunning hrun)
  rw [inOrder_of_straight htaken hidex hifid]
  exact {
    bound := hsize.symm ▸ hbound
    ifid := by rw [hfetched, setPc_imem, himem]; rfl
    idex := by rw [hinstr, youngest_of_straight htaken hidex]
    notTaken := (takenBranch_next h hinv hrun htaken).trans hidex
    noBranch := by rw [hinstr, branchesIn_congr (archView_afterEXMEM_next h hinv hstore htaken), hifid]
    ahead := archView_afterIDEX_flows h hinv hstore htaken hstall
    paid := by rw [owed_of_straight htaken hidex, hstall, hifid]; rfl }

theorem fetchedFrom_of_fetchesInOrder (hinv : HazardInv s) (hfetch : fetchesInOrder s = true) :
    FetchedFrom s t (inOrder s) := by
  cases htaken : takenBranch s with
  | true => exact fetchedFrom_of_flushed h hrun htaken
  | false =>
    simp only [fetchesInOrder, htaken, Bool.false_or, Bool.and_eq_true, Bool.not_eq_true'] at hfetch
    obtain ⟨-, ⟨hstall, hidex⟩, hifid⟩ := hfetch
    exact fetchedFrom_of_straight h hrun hinv htaken hstall hidex hifid

end Fetched

namespace FetchedFrom

variable {s t x : State} (h : FetchedFrom s t x)
include h

theorem congr {y : State} (hview : programView y = programView x) (hrun : x.running = true) : FetchedFrom s t y := by
  obtain ⟨harch, hpcs⟩ := programView_eq_iff.1 hview
  have hpc := hpcs ((running_congr harch).trans hrun)
  exact { h with
    bound := by rw [hpc, memSize_congr harch]; exact h.bound
    ifid := by rw [hpc, imem_congr harch]; exact h.ifid
    ahead := h.ahead.trans harch.symm }

theorem seqStep_eq (hrun : x.running = true) : seqStep x = .next (effect t.ifid.instr x) := by
  rw [seqStep_of_lt hrun h.bound, h.ifid]

theorem youngest_eq : youngest t = t.ifid.instr := youngest_of_straight h.notTaken h.noBranch

/-- The fetched word pays for itself, and what is owed behind it is what the formula charges for it. -/
theorem charge_eq (l : List (State × Word)) :
    charge (youngest s) ((x, x.imem.read x.pc.toNat) :: l) = 1 + owed t + charge (youngest t) l := by
  rw [charge_cons, owed_of_straight h.notTaken h.noBranch, branchesIn_congr h.ahead, loadUseStall, h.youngest_eq,
    h.ifid, h.idex]
  omega

end FetchedFrom

/-! ### The walk of the HALT -/

/-- A run that ends halted goes on from a running state with a committed cycle. -/
theorem exists_commits_of_run {k : Nat} {s t : State} (hhalted : t.status = .halted) (hrunning : s.running = true)
    (hrun : Host.Core.run Sys2Proof.core k s = .next t) :
    ∃ j v, k = j + 1 ∧ Commits s v ∧ Host.Core.run Sys2Proof.core j v = .next t := by
  obtain ⟨hfault, hhaltedT⟩ := (status_halted_iff t).1 hhalted
  cases k with
  | zero =>
    cases hrun
    cases ((running_iff s).1 hrunning).2.symm.trans hhaltedT
  | succ j =>
    obtain ⟨v, hstep, hrest⟩ := run_succ hrun
    exact ⟨j, v, rfl, commits_of_run hstep hrest hfault, hrest⟩

theorem running_eq_false_of_halted {s : State} (h : s.status = .halted) : s.running = false := by
  obtain ⟨-, hhalted⟩ := (status_halted_iff s).1 h
  simp [State.running, hhalted]

theorem loadUseStall_of_halt {f : IFID} {x : IDEX} (h : decode f.instr = .halt) : loadUseStall f x = false := by
  simp [loadUseStall, readsReg, h, Instr.readsA, Instr.readsB]

/-- A HALT in IF/ID with nothing ahead that squashes it or stops the machine halts it in four cycles, one of them its
ID cycle (R105, R115). -/
theorem cycles_of_halt_in_ifid {k : Nat} {s t : State} (hinv : HazardInv s) (hhalt : decode s.ifid.instr = .halt)
    (htaken : takenBranch s = false) (hidex : branchesIn s.idex.instr (afterEXMEM s) = false)
    (hrunning : (afterIDEX s).running = true) (hhalted : t.status = .halted)
    (hrun : Host.Core.run Sys2Proof.core k s = .next t) : t.cycles = s.cycles + 4 := by
  have hrunX : (afterEXMEM s).running = true := running_of_ifRunning hrunning
  have hrunM : (afterMEMWB s).running = true := running_of_ifRunning hrunX
  have hstall := loadUseStall_of_halt (x := s.idex) hhalt
  obtain ⟨_, s₁, -, h₁, hrest₁⟩ := exists_commits_of_run hhalted (running_of_ifRunning hrunM) hrun
  obtain ⟨-, -, -, hinstr, -⟩ := commits_flows h₁ htaken hstall
  have htaken₁ : takenBranch s₁ = false := (takenBranch_next h₁ hinv hrunX htaken).trans hidex
  have hstore := not_storesBehindHalt_of_running h₁ hrunM
  have hrunM₁ : (afterMEMWB s₁).running = true := (running_congr (archView_afterMEMWB_next h₁ hstore)).trans hrunX
  have hrunX₁ : (afterEXMEM s₁).running = true :=
    (running_congr (archView_afterEXMEM_next h₁ hinv hstore htaken)).trans hrunning
  obtain ⟨_, s₂, -, h₂, hrest₂⟩ := exists_commits_of_run hhalted ((running_next h₁).trans hrunM) hrest₁
  have hstore₁ := not_storesBehindHalt_of_running h₂ hrunM₁
  have hrunM₂ : (afterMEMWB s₂).running = true := (running_congr (archView_afterMEMWB_next h₂ hstore₁)).trans hrunX₁
  obtain ⟨_, s₃, -, h₃, hrest₃⟩ := exists_commits_of_run hhalted ((running_next h₂).trans hrunM₁) hrest₂
  obtain ⟨_, s₄, -, h₄, hrest₄⟩ := exists_commits_of_run hhalted ((running_next h₃).trans hrunM₂) hrest₃
  obtain ⟨hhalted₄, hcycles₄⟩ := Halt.haltInIdExHaltsInThreeCycles s₁ s₂ s₃ s₄ htaken₁ (hinstr ▸ hhalt) h₂ h₃ h₄
  obtain ⟨hcycles₁, -, -, -⟩ := Halt.commits_moves h₁
  rw [eq_of_run_of_stopped (running_eq_false_of_halted hhalted₄) hrest₄, hcycles₄, hcycles₁]

/-! ### Only a HALT halts the program order -/

theorem completeMEMWB_halted {m : MEMWB} (s : State) (h : (decode m.instr).isHalt = false) :
    (completeMEMWB m s).halted = s.halted := by
  cases hdest : (decode m.instr).dest with
  | none => rw [completeMEMWB_of_dest_none s h hdest]
  | some d =>
    rw [completeMEMWB_of_dest s hdest]
    cases writeReg s.regs d m.writeData <;> rfl

theorem completeEXMEM_halted {e : EXMEM} (s : State) (h : (decode e.instr).isHalt = false) :
    (completeEXMEM e s).halted = s.halted := by
  rw [completeEXMEM]
  split
  · split
    · exact completeMEMWB_halted s h
    · rfl
  · split
    · cases memWrite s.memSize s.dmem e.aluResult e.readRegB <;> rfl
    · exact completeMEMWB_halted s h

theorem decode_eq_halt_of_effect {w : Word} {s : State} (hrun : s.running = true) (h : (effect w s).halted = true) :
    decode w = .halt := by
  obtain ⟨-, hhalted⟩ := (running_iff s).1 hrun
  refine (isHalt_iff _).1 (Bool.of_not_eq_false fun hother => ?_)
  rw [halted_congr (archView_effect w s), completeEXMEM_halted (e := resolved w s) s hother, hhalted] at h
  cases h

/-! ### The run -/

/-- The cycles from `s` to the halted state `t` are what is owed for the words in flight, what the formula charges for the
instructions that the program order runs from `x` until it halts, and the four cycles of the HALT behind its fetch. -/
def CyclesAsCharged (s x t : State) : Prop :=
  ∃ n u, seqRun n x = .next u ∧ u.status = .halted ∧
    t.cycles = s.cycles + owed s + charge (youngest s) (executed n x) + 4

section Step

variable {s v x t : State} (hcycles : v.cycles = s.cycles + 1)
include hcycles

theorem cyclesAsCharged_of_paysOne (hpays : PaysOne s v) (hrest : CyclesAsCharged v x t) : CyclesAsCharged s x t := by
  obtain ⟨howed, hcharge⟩ := hpays
  obtain ⟨n, u, hseq, hstatus, htotal⟩ := hrest
  exact ⟨n, u, hseq, hstatus, by rw [hcharge]; omega⟩

variable (hfetched : FetchedFrom s v x) (hrunning : x.running = true)
include hfetched hrunning

theorem cyclesAsCharged_of_fetchedFrom (hrest : CyclesAsCharged v (effect v.ifid.instr x) t) :
    CyclesAsCharged s x t := by
  have hstep := hfetched.seqStep_eq hrunning
  obtain ⟨n, u, hseq, hstatus, htotal⟩ := hrest
  refine ⟨n + 1, u, (seqRun_succ hstep).trans hseq, hstatus, ?_⟩
  rw [executed_succ hstep, hfetched.charge_eq, hfetched.paid]
  omega

theorem cyclesAsCharged_of_halt {k : Nat} (hinv : HazardInv v) (hhalt : decode v.ifid.instr = .halt)
    (hhalted : t.status = .halted) (hrun : Host.Core.run Sys2Proof.core k v = .next t) : CyclesAsCharged s x t := by
  have hstep := hfetched.seqStep_eq hrunning
  obtain ⟨hfault, -⟩ := (running_iff x).1 hrunning
  have hisHalt : (decode v.ifid.instr).isHalt = true := (isHalt_iff _).2 hhalt
  have heffect := effect_of_halt x hisHalt
  have howed : owed v = 0 := by
    rw [owed_of_straight hfetched.notTaken hfetched.noBranch, branchesIn_of_not_isBranch _ (by rw [hhalt]; rfl)]
    simp [loadUseStall_of_halt hhalt]
  have hwalk := cycles_of_halt_in_ifid hinv hhalt hfetched.notTaken hfetched.noBranch
    ((running_congr hfetched.ahead).trans hrunning) hhalted hrun
  refine ⟨1, _, (seqRun_succ hstep).trans rfl, (status_halted_iff _).2 ⟨?_, effect_halted_of_isHalt x hisHalt⟩, ?_⟩
  · rw [heffect]
    exact hfault
  · rw [executed_succ hstep, hfetched.charge_eq, hfetched.paid, howed, executed, charge_nil]
    omega

end Step

/-- A run that halts takes the cycles charged, seen from any state whose program order still runs. -/
theorem cyclesAsCharged_of_run {t : State} (hhalted : t.status = .halted) (k : Nat) :
    ∀ {s x : State}, HazardInv s → StorageInv s → (inOrder s).running = true → programView x = programView (inOrder s) →
      Host.Core.run Sys2Proof.core k s = .next t → CyclesAsCharged s x t := by
  induction k with
  | zero =>
    intro s x hinv hstorage hrunO hx hrun
    obtain ⟨_, _, hk, -⟩ := exists_commits_of_run hhalted (running_of_inOrder hrunO) hrun
    cases hk
  | succ k ih =>
    intro s x hinv hstorage hrunO hx hrun
    obtain ⟨_, v, hk, h, hrest⟩ := exists_commits_of_run hhalted (running_of_inOrder hrunO) hrun
    cases hk
    have hrunX := running_afterEXMEM_of_inOrder hrunO
    have hrunM : (afterMEMWB s).running = true := running_of_ifRunning hrunX
    have hinvV := hazardInv_of_commits h
    have hstorageV := Storage.storageInvariantKept s v hstorage h.1
    obtain ⟨hcycles, -, -, -⟩ := Halt.commits_moves h
    have hrefines : Refines s v := everyCycleRefinesProgramOrder s v hinv h (not_storesBehindHalt_of_running h hrunM)
    cases hfetch : fetchesInOrder s with
    | false =>
      rw [Refines, if_neg (by simp [hfetch])] at hrefines
      have hrunV : (inOrder v).running = true := (running_congr (programView_eq_iff.1 hrefines).1).trans hrunO
      exact cyclesAsCharged_of_paysOne hcycles (paysOne_of_not_fetchesInOrder h hinv hrunO hfetch)
        (ih hinvV hstorageV hrunV (hx.trans hrefines.symm) hrest)
    | true =>
      rw [Refines, if_pos hfetch] at hrefines
      obtain ⟨u, hseqO, hviewO⟩ := hrefines
      have hfetched := (fetchedFrom_of_fetchesInOrder h hrunX hinv hfetch).congr hx hrunO
      have hrunx : x.running = true := (running_congr (programView_eq_iff.1 hx).1).trans hrunO
      obtain ⟨y, hseqX, hviewX⟩ := seqStep_congr hx.symm hseqO
      cases (hfetched.seqStep_eq hrunx).symm.trans hseqX
      have hviewV : programView (effect v.ifid.instr x) = programView (inOrder v) := hviewX.symm.trans hviewO.symm
      cases hrunV : (inOrder v).running with
      | true =>
        exact cyclesAsCharged_of_fetchedFrom hcycles hfetched hrunx (ih hinvV hstorageV hrunV hviewV hrest)
      | false =>
        obtain ⟨n, w, hseq, ⟨hstatus, -⟩⟩ :=
          exists_seqRun_haltedAlike hhalted k hinvV hstorageV ((running_next h).trans hrunM) hviewV hrest
        have hstop : (effect v.ifid.instr x).running = false :=
          (running_congr (programView_eq_iff.1 hviewV).1).trans hrunV
        rw [eq_of_seqRun_of_stopped hstop hseq] at hstatus
        obtain ⟨-, heffect⟩ := (status_halted_iff _).1 hstatus
        exact cyclesAsCharged_of_halt hcycles hfetched hrunx hinvV (decode_eq_halt_of_effect hrunx heffect) hhalted hrest

section Empty

variable {s : State} (h : PipelineEmpty s)
include h

theorem owed_of_empty : owed s = 0 := by
  obtain ⟨hifid, hidex, hexmem, -, -⟩ := h
  rw [owed_of_straight (not_takenBranch_of_noop hexmem) (hidex ▸ branchesIn_noopW _), hifid, branchesIn_noopW]
  simp [loadUseStall, hifid]

theorem youngest_of_empty : youngest s = noopW := by
  obtain ⟨hifid, hidex, hexmem, -, -⟩ := h
  rw [youngest_of_straight (not_takenBranch_of_noop hexmem) (hidex ▸ branchesIn_noopW _), hifid]

end Empty

/-- Settles O50: reset's empty pipeline owes nothing, and a no-op is followed at no charge. -/
theorem haltedRunCycleCount : Obligations.HaltedRunCycleCount := by
  intro memSize image s hload k t hrun hhalted
  have hinv := Reset.hazardInvariantAtReset.2 memSize image s hload
  have hstorage := Reset.storageInvariantAtReset.2 memSize image s hload
  obtain ⟨-, -, rfl⟩ := Reset.load_eq_some hload
  have hempty : PipelineEmpty { State.reset with
      memSize := memSize, imem := Memory.ofImage image, dmem := Memory.ofImage image } := ⟨rfl, rfl, rfl, rfl, rfl⟩
  have hview := programView_inOrder_of_empty hempty
  have hrunO := (running_congr (programView_eq_iff.1 hview).1).trans (running_of_empty hempty rfl)
  obtain ⟨n, u, hseq, hstatus, htotal⟩ := cyclesAsCharged_of_run hhalted k hinv hstorage hrunO hview.symm hrun
  refine ⟨n, u, hseq, hstatus, ?_⟩
  rw [htotal, owed_of_empty hempty, youngest_of_empty hempty, charge_noopW, length_executed hseq]
  simp only [State.reset]
  omega

end Sys2Proof.Proofs.CycleCount

/-! Proofs. The forwarding network (R161 to R168): which latches are sources, which one is taken, and that the operands EX
resolves are the values of program order. -/

namespace Sys2Proof.Proofs.Forwarding

open Sys2Proof Sys2Proof.Machine Sys2Proof.Safety Sys2Proof.Laws
open Sys2Proof.Proofs.CommittedCycle Sys2Proof.Proofs.Refinement

/-- Settles O33, opcode by opcode: a destination index is compared whole, and the opcodes without one are no source. -/
theorem forwardingSourcesMatchExactly : Obligations.ForwardingSourcesMatchExactly := by
  intro w r
  rw [forwardsTo_iff]
  rcases decode_cases w with h | h | h | h | h | h | h | h <;> simp [h, Instr.dest, BitVec.toNat_inj]

/-- Settles O34: the selection tests the latches from the youngest on. -/
theorem forwardingPicksTheYoungestSource : Obligations.ForwardingPicksTheYoungestSource := by
  intro r v m w e
  refine ⟨fun hm => ?_, fun hm hw => ?_, fun hm hw he => ?_, fun hm hw he => ?_⟩
  · simp only [fwd, hm, if_true]
  · simp [fwd, hm, hw]
  · simp [fwd, hm, hw, he]
  · simp [fwd, hm, hw, he]

/-- Settles O47: each operand that is read comes from the youngest older instruction that writes the register, which is
the last to have written it when both have completed. -/
theorem forwardingDeliversProgramOrderValues : Obligations.ForwardingDeliversProgramOrderValues :=
  fun _ hinv _ hrun => ⟨operandA_eq_reg hinv hrun, operandB_eq_reg hinv hrun⟩

end Sys2Proof.Proofs.Forwarding

/-! Proofs. The flush of a taken BEQ (R170 to R178): what its cycle commits, that the squashed latches do not reach it, and
when it comes. -/

namespace Sys2Proof.Proofs.BranchFlush

open Sys2Proof Sys2Proof.Machine Sys2Proof.Safety Sys2Proof.Laws
open Sys2Proof.Proofs.CommittedCycle Sys2Proof.Proofs.Refinement

/-! ### The flush-adjusted state -/

theorem stalls_of_takenBranch {s : State} (h : takenBranch s = true) : stalls (flushAdjust s) = false :=
  Bool.eq_false_iff.2 fun hstall => by cases h.symm.trans (Storage.not_takenBranch_of_stalls hstall)

/-- EX on a bubble gives the no-op that R132 lists: every field is 0 but store data, which forwarding resolves for
register 0 as for any other. -/
theorem exStage_of_bubble {t : State} (hidex : t.idex = bubbleIDEX) (hexmem : t.exmem = bubbleEXMEM) :
    exStage t = { instr := noopW, branchTarget := 0#32, eq := false, aluResult := 0#32,
                  readRegB := fwd 0#3 0#32 bubbleEXMEM t.memwb t.wbend } := by
  have hinstr : t.idex.instr = noopW := by rw [hidex]; rfl
  have htarget : exBranchTarget t = 0#32 := by rw [exBranchTarget, hidex]; rfl
  have hoperandB : operandB t = fwd 0#3 0#32 bubbleEXMEM t.memwb t.wbend := by
    rw [operandB, hinstr, regB_noopW, hexmem, hidex]
    rfl
  rw [exStage, hinstr, decode_noopW, htarget, hoperandB]
  rfl

theorem memStage_of_bubble {t : State} (h : t.exmem = bubbleEXMEM) :
    memStage t = .ok ({ instr := noopW, writeData := 0#32 }, t.dmem) := by
  simp [memStage, h, bubbleEXMEM, Instr.memRead, Instr.memWrite]

/-- ID on a bubble reads register 0 for both of the no-op's fields (R127, R173). -/
theorem idStage_of_bubble {t : State} (h : t.ifid = bubbleIFID) :
    idStage t false =
      { instr := noopW, pcPlus1 := 0#32, readRegA := t.reg 0#3, readRegB := t.reg 0#3, offset := 0#32 } := by
  have hinstr : t.ifid.instr = noopW := by rw [h]; rfl
  have hpcPlus1 : t.ifid.pcPlus1 = 0#32 := by rw [h]; rfl
  simp [idStage, hinstr, hpcPlus1, State.reg]

/-- Settles O35: the stages of the flush-adjusted state, latch by latch. -/
theorem flushCycleFetchesTheTarget : Obligations.FlushCycleFetchesTheTarget := by
  intro s t htaken h
  have hstalls := stalls_of_takenBranch htaken
  have hflushed : (flushAdjust s).ifid = bubbleIFID ∧ (flushAdjust s).idex = bubbleIDEX ∧
      (flushAdjust s).exmem = bubbleEXMEM := by simp [flushAdjust, htaken]
  obtain ⟨hifidF, hidexF, hexmemF⟩ := hflushed
  obtain ⟨hbound, hpc, hifid, -, -⟩ := commits_flushed h htaken
  have hidex : t.idex = { instr := noopW, pcPlus1 := 0#32, readRegA := s.reg 0#3, readRegB := s.reg 0#3,
                          offset := 0#32 } := by
    rw [commits_idex h, hstalls, idStage_of_bubble hifidF, State.reg, State.reg, flushAdjust_regs]
  have hexmem := commits_exmem h
  rw [exStage_of_bubble hidexF hexmemF, flushAdjust_memwb, flushAdjust_wbend] at hexmem
  obtain ⟨-, hmem, -⟩ := commits_stages h
  rw [memStage_of_bubble hexmemF, flushAdjust_dmem] at hmem
  obtain ⟨hmemwb, hdmem⟩ := Prod.mk.inj (Except.ok.inj hmem)
  rw [hexmem]
  exact ⟨hstalls, hbound, hpc, hifid, hidex, rfl, rfl, rfl, rfl, rfl, hmemwb.symm, PipelineStages.commits_wbend h,
    hdmem.symm⟩

/-! ### The squashed part of the state (R176) -/

/-- The state with what a flush discards replaced: `pc`, IF/ID and ID/EX. -/
def withFrontEnd (s : State) (pc : Word) (ifid : IFID) (idex : IDEX) : State :=
  { s with pc := pc, ifid := ifid, idex := idex }

section FrontEnd

variable (s : State) (pc : Word) (ifid : IFID) (idex : IDEX)

/-- Branch resolution reads EX/MEM alone (R172). -/
theorem takenBranch_withFrontEnd : takenBranch (withFrontEnd s pc ifid idex) = takenBranch s := rfl

theorem status_withFrontEnd : (withFrontEnd s pc ifid idex).status = s.status := rfl

/-- A flush overwrites all three (R173). -/
theorem flushAdjust_withFrontEnd (h : takenBranch s = true) :
    flushAdjust (withFrontEnd s pc ifid idex) = flushAdjust s := by
  rw [flushAdjust, flushAdjust, takenBranch_withFrontEnd, if_pos h, if_pos h]
  rfl

/-- The commit takes the size, instruction memory and the count alone from the state before (R113). -/
theorem runStages_withFrontEnd (t : State) : runStages (withFrontEnd s pc ifid idex) t = runStages s t := rfl

end FrontEnd

/-- Settles O36: the stages run on the same flush-adjusted state. -/
theorem squashedInstructionsLeaveNoTrace : Obligations.SquashedInstructionsLeaveNoTrace := by
  rintro s t pc ifid idex htaken ⟨hstep, hfault⟩
  show step (withFrontEnd s pc ifid idex) = .next t
  obtain ⟨hstatus, ⟨f, -, rfl⟩ | hcommit⟩ := step_next hstep
  · cases hfault
  · rw [step, whileRunning_of_running ((status_withFrontEnd s pc ifid idex).trans hstatus), cycle,
      flushAdjust_withFrontEnd s pc ifid idex htaken, runStages_withFrontEnd, hcommit, settle_ok]

/-! ### When a flush comes -/

/-- Settles O37: the flush cycle leaves a no-op in EX/MEM and one in ID/EX, which the next cycle moves on. -/
theorem oneTakenBranchFlushesOnce : Obligations.OneTakenBranchFlushesOnce := by
  intro s t u htaken hst htu
  obtain ⟨-, -, -, hidex, hexmem⟩ := commits_flushed hst htaken
  have htakenT : takenBranch t = false := not_takenBranch_of_noop hexmem
  obtain ⟨hexmemU, -⟩ := EmptyPipeline.moves_of_not_taken htu htakenT
  exact ⟨htakenT, not_takenBranch_of_noop (hexmemU.trans hidex)⟩

/-- Settles O38: the first cycle sets `eq` and computes the target, and the second flushes. -/
theorem takenBranchFetchesItsTargetOneCycleAfterEx : Obligations.TakenBranchFetchesItsTargetOneCycleAfterEx := by
  intro s t u a b off htaken hbeq heq hst htu
  have htakenT : takenBranch t = true := by
    rw [commits_takenBranch hst htaken, branchOutcome, hbeq, heq, (Branch.eq32_iff _ _).2 rfl]
    rfl
  have htarget : t.exmem.branchTarget = s.idex.pcPlus1 + s.idex.offset := by
    rw [commits_exmem hst, flushAdjust_of_not_taken s htaken]
    rfl
  obtain ⟨-, hpc, hifid, -, -⟩ := commits_flushed htu htakenT
  obtain ⟨-, himem⟩ := commits_storage hst
  rw [htarget] at hpc hifid
  rw [himem] at hifid
  exact ⟨htakenT, hpc, congrArg IFID.instr hifid⟩

end Sys2Proof.Proofs.BranchFlush

/-! Proofs. Which fault a cycle raises (R182, R183, R185): the exact condition under which each of the three stages that
can fault does, and the order in which the cycle takes them. -/

namespace Sys2Proof.Proofs.OldestFault

open Sys2Proof Sys2Proof.Machine Sys2Proof.Safety Sys2Proof.Laws
open Sys2Proof.Proofs.Refinement

/-! ### WB (R135) -/

/-- MEM/WB holds an ADD or NOR whose destination is no register (R74). -/
def WritesMissing (m : MEMWB) : Prop :=
  ((decode m.instr).aluSel = .addAB ∨ (decode m.instr).aluSel = .norAB) ∧ 8 ≤ (imm16 m.instr).toNat

/-- An index of 8 or more is the field of an ADD or NOR: an LW has a 3-bit field for its destination (R64, R66). -/
theorem dest_of_le_iff {w : Word} {d : Nat} (h : 8 ≤ d) :
    (decode w).dest = some d ↔
      ((decode w).aluSel = .addAB ∨ (decode w).aluSel = .norAB) ∧ (imm16 w).toNat = d := by
  rcases decode_cases w with e | e | e | e | e | e | e | e
  case inr.inr.inl =>
    have hlt : (regB w).toNat < 8 := (regB w).isLt
    simp only [e, Instr.dest, Instr.aluSel, Option.some_inj]
    exact iff_of_false (by omega) (by simp)
  all_goals simp [e, Instr.dest, Instr.aluSel]

theorem wbStage_of_writesMissing {t : State} (h : WritesMissing t.memwb) :
    wbStage t = .error (.regIndexOutOfBounds (imm16 t.memwb.instr).toNat) := by
  obtain ⟨hsel, hindex⟩ := h
  have hdest := (dest_of_le_iff hindex).2 ⟨hsel, rfl⟩
  rcases wbStage_cases t with ⟨hnone, -⟩ | ⟨d, hsome, ⟨hd, -⟩ | ⟨-, e⟩⟩
  · cases hdest.symm.trans hnone
  · cases hdest.symm.trans hsome
    exact absurd hd (Nat.not_lt.2 hindex)
  · cases hdest.symm.trans hsome
    exact e

theorem wbStage_of_not_writesMissing {t : State} (h : ¬ WritesMissing t.memwb) :
    ∃ wbend regs, wbStage t = .ok (wbend, regs) := by
  rcases wbStage_cases t with ⟨-, e⟩ | ⟨d, hsome, ⟨_, e⟩ | ⟨hindex, -⟩⟩
  · exact ⟨_, _, e⟩
  · exact ⟨_, _, e⟩
  · obtain ⟨hsel, rfl⟩ := (dest_of_le_iff hindex).1 hsome
    exact absurd ⟨hsel, hindex⟩ h

/-! ### MEM (R133) -/

/-- EX/MEM holds an LW or SW with an address outside `n` words (R45). -/
def BadAddress (n : Nat) (e : EXMEM) : Prop := (decode e.instr).aluSel = .addAOff ∧ n ≤ e.aluResult.toNat

/-- The memory operations are those with an effective address for their ALU result (R68). -/
theorem aluSel_addAOff_iff (i : Instr) : i.aluSel = .addAOff ↔ i.memRead = true ∨ i.memWrite = true := by
  cases i <;> simp [Instr.aluSel, Instr.memRead, Instr.memWrite]

theorem memStage_of_badAddress {t : State} (h : BadAddress t.memSize t.exmem) :
    memStage t = .error (.dataAddressOutOfBounds t.exmem.aluResult) := by
  obtain ⟨hsel, hout⟩ := h
  have haccess := (aluSel_addAOff_iff _).1 hsel
  rcases memStage_cases t with ⟨-, hin, -⟩ | ⟨-, hin, -⟩ | ⟨hload, hstore, -⟩ | ⟨-, -, e⟩
  · exact absurd hin (Nat.not_lt.2 hout)
  · exact absurd hin (Nat.not_lt.2 hout)
  · simp [hload, hstore] at haccess
  · exact e

theorem memStage_of_not_badAddress {t : State} (h : ¬ BadAddress t.memSize t.exmem) :
    ∃ memwb dmem, memStage t = .ok (memwb, dmem) := by
  rcases memStage_cases t with ⟨-, -, e⟩ | ⟨-, -, e⟩ | ⟨-, -, e⟩ | ⟨haccess, hout, -⟩
  · exact ⟨_, _, e⟩
  · exact ⟨_, _, e⟩
  · exact ⟨_, _, e⟩
  · exact absurd ⟨(aluSel_addAOff_iff _).2 haccess, hout⟩ h

/-- A flush puts a bubble in place of a BEQ, and neither of them has an address (R173). -/
theorem badAddress_flushAdjust (s : State) (n : Nat) : BadAddress n (flushAdjust s).exmem ↔ BadAddress n s.exmem := by
  cases htaken : takenBranch s with
  | false => rw [flushAdjust_of_not_taken s htaken]
  | true =>
    obtain ⟨a, b, off, hbeq⟩ := (isBranch_iff _).1 (Bool.and_eq_true_iff.1 htaken).1
    rw [flushAdjust_exmem, if_pos htaken]
    exact iff_of_false (by simp [BadAddress, bubbleEXMEM, Instr.aluSel]) (by simp [BadAddress, hbeq, Instr.aluSel])

/-! ### IF (R125) -/

/-- The cycle on `s` fetches, and from an address out of bounds (R125, R126). -/
def BadFetch (s : State) : Prop := stalls (flushAdjust s) = false ∧ s.memSize ≤ (fetchAddress s).toNat

theorem ifStage_of_badFetch {s : State} (h : BadFetch s) :
    ifStage (flushAdjust s) (stalls (flushAdjust s)) = .error (.fetchOutOfBounds (fetchAddress s)) := by
  obtain ⟨hstall, hout⟩ := h
  rcases ifStage_cases (flushAdjust s) (stalls (flushAdjust s)) with ⟨htrue, -⟩ | ⟨-, hin, -⟩ | ⟨-, -, e⟩
  · cases hstall.symm.trans htrue
  · rw [flushAdjust_memSize] at hin
    exact absurd hin (Nat.not_lt.2 hout)
  · exact e

theorem ifStage_of_not_badFetch {s : State} (h : ¬ BadFetch s) :
    ∃ pc ifid, ifStage (flushAdjust s) (stalls (flushAdjust s)) = .ok (pc, ifid) := by
  rcases ifStage_cases (flushAdjust s) (stalls (flushAdjust s)) with ⟨-, e⟩ | ⟨-, -, e⟩ | ⟨hstall, hout, -⟩
  · exact ⟨_, _, e⟩
  · exact ⟨_, _, e⟩
  · rw [flushAdjust_memSize] at hout
    exact absurd ⟨hstall, hout⟩ h

/-! ### The cycle takes the fault of the oldest instruction (R185) -/

theorem step_of_error {s : State} {f : MachineFault} (hrun : s.status = .running)
    (h : runStages s (flushAdjust s) = .error f) : step s = .next (s.takeFault f) := by
  rw [step, whileRunning_of_running hrun, cycle, h, settle_error]

section Priority

variable {s : State} (hrun : s.status = .running)
include hrun

theorem step_of_writesMissing (h : WritesMissing s.memwb) :
    step s = .next (s.takeFault (.regIndexOutOfBounds (imm16 s.memwb.instr).toNat)) := by
  refine step_of_error hrun ?_
  rw [runStages, wbStage_flushAdjust, wbStage_of_writesMissing h]

variable (hwb : ¬ WritesMissing s.memwb)
include hwb

theorem step_of_badAddress (h : BadAddress s.memSize s.exmem) :
    step s = .next (s.takeFault (.dataAddressOutOfBounds s.exmem.aluResult)) := by
  obtain ⟨wbend, regs, hwb⟩ := wbStage_of_not_writesMissing hwb
  have htaken : takenBranch s = false := Halt.not_takenBranch_of_not_isBranch (by
    rcases (aluSel_addAOff_iff _).1 h.1 with hload | hstore
    · obtain ⟨a, b, off, hlw⟩ := (memRead_iff _).1 hload
      rw [hlw]
      rfl
    · obtain ⟨a, b, off, hsw⟩ := (memWrite_iff _).1 hstore
      rw [hsw]
      rfl)
  refine step_of_error hrun ?_
  rw [runStages, flushAdjust_of_not_taken s htaken, hwb]
  simp only [memStage_of_badAddress h]

variable (hmem : ¬ BadAddress s.memSize s.exmem)
include hmem

theorem step_of_badFetch (h : BadFetch s) : step s = .next (s.takeFault (.fetchOutOfBounds (fetchAddress s))) := by
  obtain ⟨wbend, regs, hwb⟩ := wbStage_of_not_writesMissing hwb
  rw [← badAddress_flushAdjust, ← flushAdjust_memSize] at hmem
  obtain ⟨memwb, dmem, hmem⟩ := memStage_of_not_badAddress hmem
  refine step_of_error hrun ?_
  rw [runStages, wbStage_flushAdjust, hwb]
  simp only [hmem, ifStage_of_badFetch h]

theorem exists_commits (h : ¬ BadFetch s) : ∃ t, Commits s t := by
  obtain ⟨wbend, regs, hwb⟩ := wbStage_of_not_writesMissing hwb
  rw [← badAddress_flushAdjust, ← flushAdjust_memSize] at hmem
  obtain ⟨memwb, dmem, hmem⟩ := memStage_of_not_badAddress hmem
  obtain ⟨pc, ifid, hif⟩ := ifStage_of_not_badFetch h
  rw [← wbStage_flushAdjust] at hwb
  exact ⟨_, Halt.commits_of_stages hrun hwb hmem hif⟩

end Priority

/-- Settles O26, from the oldest stage to the youngest: WB, MEM, IF, and none. -/
theorem oldestFaultIsRecorded : Obligations.OldestFaultIsRecorded := by
  intro s hrun
  by_cases hwb : WritesMissing s.memwb
  · exact ⟨_, step_of_writesMissing hrun hwb, fun _ => rfl, fun hno => absurd hwb hno⟩
  by_cases hmem : BadAddress s.memSize s.exmem
  · exact ⟨_, step_of_badAddress hrun hwb hmem, fun hyes => absurd hyes hwb, fun _ =>
      ⟨fun _ => rfl, fun hno => absurd hmem hno⟩⟩
  by_cases hif : BadFetch s
  · exact ⟨_, step_of_badFetch hrun hwb hmem hif, fun hyes => absurd hyes hwb, fun _ =>
      ⟨fun hyes => absurd hyes hmem, fun _ => ⟨fun _ => rfl, fun hno => absurd hif hno⟩⟩⟩
  obtain ⟨t, hstep, hfault⟩ := exists_commits hrun hwb hmem hif
  exact ⟨t, hstep, fun hyes => absurd hyes hwb, fun _ =>
    ⟨fun hyes => absurd hyes hmem, fun _ => ⟨fun hyes => absurd hyes hif, fun _ => hfault⟩⟩⟩

end Sys2Proof.Proofs.OldestFault

/-! Proofs. The first cycles after reset (R200, R201): the fetch of word 0, and the five cycles that carry a first
instruction through an empty pipeline. -/

namespace Sys2Proof.Proofs.FirstInstruction

open Sys2Proof Sys2Proof.Machine Sys2Proof.Safety Sys2Proof.Laws
open Sys2Proof.Proofs.CommittedCycle Sys2Proof.Proofs.ProgramOrder Sys2Proof.Proofs.Refinement
open Sys2Proof.Proofs.EmptyPipeline Sys2Proof.Proofs.OldestFault

/-! ### The first cycle -/

/-- Settles O20: the reset bubbles give back the bubbles that stand behind them, and the fetch at 0 is in bounds for every
size that loads. -/
theorem firstCycleFetchesWordZero : Obligations.FirstCycleFetchesWordZero := by
  intro memSize image s hload
  obtain ⟨hsize, -, rfl⟩ := Reset.load_eq_some hload
  obtain ⟨hpos, -⟩ := (Storage.memSizeAllowed_iff memSize).1 hsize
  set s : State :=
    { State.reset with memSize := memSize, imem := Memory.ofImage image, dmem := Memory.ofImage image }
  have hrunning : s.status = .running :=
    (status_running_iff s).2 ((running_iff s).1 (HaltedRun.running_of_empty ⟨rfl, rfl, rfl, rfl, rfl⟩ rfl))
  have hflush : flushAdjust s = s := flushAdjust_of_not_taken s (not_takenBranch_of_noop rfl)
  have hwb : wbStage s = .ok (s.wbend, s.regs) := by
    have hdest : (decode noopW).dest = none := by decide
    exact Halt.wbStage_of_dest_none (t := s) hdest
  have hmem : memStage s = .ok (s.memwb, s.dmem) := BranchFlush.memStage_of_bubble (t := s) rfl
  have hstall : stalls s = false := loadUseStall_bubble _
  have hif : ifStage s (stalls s) = .ok (1#32, { instr := s.imem.read 0, pcPlus1 := 1#32 }) := by
    rw [hstall]
    rcases ifStage_cases s false with ⟨hfalse, -⟩ | ⟨-, -, e⟩ | ⟨-, hout, -⟩
    · cases hfalse
    · exact e
    · exact absurd hpos (Nat.not_le.2 (Nat.lt_succ_of_le hout))
  have hid : idStage s (stalls s) = s.idex := by
    have hreg : s.reg 0#3 = 0#32 := Reset.readReg_replicate 0#32 0#3
    rw [hstall, BranchFlush.idStage_of_bubble (t := s) rfl, hreg]
    rfl
  have hex : exStage s = s.exmem := by
    have hsources : fwd 0#3 0#32 bubbleEXMEM resetMEMWB resetWBEND = 0#32 := by decide
    exact (BranchFlush.exStage_of_bubble (t := s) rfl rfl).trans
      (congrArg (fun b => { bubbleEXMEM with readRegB := b }) hsources)
  rw [← hflush] at hwb hmem hif
  obtain ⟨hstep, -⟩ := Halt.commits_of_stages hrunning hwb hmem hif
  rw [hstep, hflush, hid, hex]
  rfl

/-! ### Five cycles with nothing in the way -/

theorem not_writesMissing_of_noop {m : MEMWB} (h : m.instr = noopW) : ¬ WritesMissing m := by
  rintro ⟨hsel, -⟩
  simp [h, Instr.aluSel] at hsel

theorem not_badAddress_of_noop {e : EXMEM} (h : e.instr = noopW) (n : Nat) : ¬ BadAddress n e := by
  rintro ⟨hsel, -⟩
  simp [h, Instr.aluSel] at hsel

theorem not_badAddress_of_addAB {e : EXMEM} (h : (decode e.instr).aluSel = .addAB) (n : Nat) : ¬ BadAddress n e := by
  rintro ⟨hsel, -⟩
  cases h.symm.trans hsel

theorem not_isHalt_of_isBranch {i : Instr} (h : i.isBranch = true) : i.isHalt = false := by
  obtain ⟨a, b, off, rfl⟩ := (isBranch_iff i).1 h
  rfl

theorem isBranch_of_addAB {i : Instr} (h : i.aluSel = .addAB) : i.isBranch = false := by
  cases i with
  | beq => cases h
  | _ => rfl

/-- What program order completes in WB without a fault raises none there. -/
theorem not_writesMissing_of_afterMEMWB {s : State} (hrun : s.running = true) (h : (afterMEMWB s).fault = none) :
    ¬ WritesMissing s.memwb := by
  rintro ⟨hsel, hindex⟩
  have hdest := (dest_of_le_iff hindex).2 ⟨hsel, rfl⟩
  rw [afterMEMWB, ifRunning_of_running hrun, completeMEMWB_of_dest s hdest, MissingRegister.writeReg_of_le s.regs hindex]
    at h
  cases h

/-- What program order completes in MEM without a fault raises none there. -/
theorem not_badAddress_of_afterEXMEM {s : State} (hrun : (afterMEMWB s).running = true)
    (h : (afterEXMEM s).fault = none) : ¬ BadAddress s.memSize s.exmem := by
  rintro ⟨hsel, hout⟩
  have hsize : (afterMEMWB s).memSize = s.memSize := (storageKept_ifRunning (storageKept_completeMEMWB _) s).1
  rw [← hsize] at hout
  rw [afterEXMEM, ifRunning_of_running hrun] at h
  rcases (aluSel_addAOff_iff _).1 hsel with hload | hstore
  · rw [completeEXMEM_of_load_le hload hout] at h
    cases h
  · rw [completeEXMEM_of_store_le hstore hout] at h
    cases h

/-- A cycle moves `pc` on by one word at most from where it fetches. -/
theorem pc_le_of_commits {s t : State} (h : Commits s t) : t.pc.toNat ≤ (fetchAddress s).toNat + 1 := by
  cases hstall : stalls (flushAdjust s) with
  | false =>
    obtain ⟨-, hpc, -⟩ := commits_fetch h hstall
    rw [hpc]
    exact Storage.nextAddr_le_of_lt (Nat.lt_succ_self _)
  | true =>
    obtain ⟨htaken, hloadUse⟩ := (HazardUnit.stalls_flushAdjust_iff s).1 hstall
    obtain ⟨hpc, -, -⟩ := commits_stalled h htaken hloadUse
    rw [hpc, fetchAddress, flushAdjust_of_not_taken s htaken]
    exact Nat.le_succ _

theorem fetchAddress_of_not_taken {s : State} (h : takenBranch s = false) : fetchAddress s = s.pc := by
  rw [fetchAddress, flushAdjust_of_not_taken s h]

theorem pc_le_of_not_taken {s t : State} (h : Commits s t) (htaken : takenBranch s = false) :
    t.pc.toNat ≤ s.pc.toNat + 1 := fetchAddress_of_not_taken htaken ▸ pc_le_of_commits h

/-- A running machine commits a cycle that raises no fault in WB or MEM and has its fetch address in bounds. -/
theorem exists_commits_of_lt {s : State} (hrun : s.running = true) (hwb : ¬ WritesMissing s.memwb)
    (hmem : ¬ BadAddress s.memSize s.exmem) (hfetch : (fetchAddress s).toNat < s.memSize) : ∃ t, Commits s t :=
  exists_commits ((status_running_iff s).2 ((running_iff s).1 hrun)) hwb hmem
    fun ⟨_, hout⟩ => absurd hfetch (Nat.not_lt.2 hout)

theorem running_next_of_noop {s t : State} (h : Commits s t) (hmemwb : s.memwb.instr = noopW) : t.running = true := by
  rw [running_of_commits h, hmemwb]
  decide

/-- No-ops ahead of ID/EX raise nothing, so a cycle on such a state commits where `pc` is in bounds. -/
theorem exists_commits_behind_noops {s : State} (hrun : s.running = true) (hexmem : s.exmem.instr = noopW)
    (hmemwb : s.memwb.instr = noopW) (hfetch : s.pc.toNat < s.memSize) : ∃ t, Commits s t :=
  exists_commits_of_lt hrun (not_writesMissing_of_noop hmemwb) (not_badAddress_of_noop hexmem _)
    (by rwa [fetchAddress_of_not_taken (not_takenBranch_of_noop hexmem)])

/-- An unflushed cycle puts in ID/EX the word that was in IF/ID, or a bubble. -/
theorem idex_of_commits {s t : State} (h : Commits s t) (htaken : takenBranch s = false) :
    t.idex.instr = noopW ∨ t.idex.instr = s.ifid.instr := by
  cases hstall : loadUseStall s.ifid s.idex with
  | true =>
    obtain ⟨-, -, hbubble⟩ := commits_stalled h htaken hstall
    rw [hbubble]
    exact .inl rfl
  | false =>
    obtain ⟨-, -, -, hinstr, -⟩ := commits_flows h htaken hstall
    exact .inr hinstr

/-- The first word is in EX/MEM after three cycles. -/
theorem exists_three_commits {s : State} (hrun : s.running = true) (hempty : PipelineEmpty s)
    (hroom : s.pc.toNat + 2 < s.memSize) :
    ∃ t₁ t₂ t₃, Commits s t₁ ∧ Commits t₁ t₂ ∧ Commits t₂ t₃ := by
  have ⟨_, _, hexmem, hmemwb, _⟩ := hempty
  obtain ⟨t₁, h₁⟩ := exists_commits_behind_noops hrun hexmem hmemwb (by omega)
  obtain ⟨hahead, -, -, -⟩ := nothingAhead_of_empty hempty h₁
  have hpc₁ := pc_le_of_not_taken h₁ (not_takenBranch_of_noop hexmem)
  have hsize₁ := (commits_storage h₁).1
  obtain ⟨t₂, h₂⟩ :=
    exists_commits_behind_noops (running_next_of_noop h₁ hmemwb) hahead.exmem hahead.memwb (by omega)
  obtain ⟨hexmem₂, hmemwb₂, -, -⟩ := walk_second hahead h₂
  have hpc₂ := pc_le_of_not_taken h₂ (not_takenBranch_of_noop hahead.exmem)
  have hsize₂ := (commits_storage h₂).1
  obtain ⟨t₃, h₃⟩ :=
    exists_commits_behind_noops (running_next_of_noop h₂ hahead.memwb) hexmem₂ hmemwb₂ (by omega)
  exact ⟨t₁, t₂, t₃, h₁, h₂, h₃⟩

section FiveCycles

variable {s t₁ t₂ t₃ : State} (hempty : PipelineEmpty s) (h₁ : Commits s t₁) (h₂ : Commits t₁ t₂) (h₃ : Commits t₂ t₃)
include hempty h₁ h₂ h₃

theorem third_memwb : t₃.memwb.instr = noopW := by
  obtain ⟨hahead, -, -, -⟩ := nothingAhead_of_empty hempty h₁
  obtain ⟨hexmem₂, -, -, -⟩ := walk_second hahead h₂
  exact (moves_of_not_taken h₃ (not_takenBranch_of_noop hexmem₂)).2.trans hexmem₂

theorem third_running : t₃.running = true := by
  obtain ⟨hahead, -, -, -⟩ := nothingAhead_of_empty hempty h₁
  obtain ⟨-, hmemwb₂, -, -⟩ := walk_second hahead h₂
  exact running_next_of_noop h₃ hmemwb₂

/-- The fourth cycle puts a no-op in EX/MEM, or the word behind the first. -/
theorem fourth_exmem {t₄ : State} (h₄ : Commits t₃ t₄) :
    t₄.exmem.instr = noopW ∨ t₄.exmem.instr = s.imem.read (nextAddr s.pc).toNat := by
  obtain ⟨hahead, -, hpc₁, -⟩ := nothingAhead_of_empty hempty h₁
  obtain ⟨hexmem₂, -, -, -⟩ := walk_second hahead h₂
  obtain ⟨-, -, hifid₂, -, -⟩ :=
    commits_flows h₂ (not_takenBranch_of_noop hahead.exmem) (loadUseStall_of_noop hahead.idex)
  rw [hpc₁, (commits_storage h₁).2] at hifid₂
  cases htaken : takenBranch t₃ with
  | true =>
    obtain ⟨-, -, -, -, hexmem₄⟩ := commits_flushed h₄ htaken
    exact .inl hexmem₄
  | false =>
    rw [(moves_of_not_taken h₄ htaken).1]
    refine (idex_of_commits h₃ (not_takenBranch_of_noop hexmem₂)).imp_right fun hidex => ?_
    rw [hidex, hifid₂]

variable (hrun : s.running = true)
include hrun

/-- What is left of the first word after three cycles has its effect. -/
theorem archView_third : archView (afterEXMEM t₃) = archView (effect (s.imem.read s.pc.toNat) s) := by
  obtain ⟨hahead, hview₁, -, hifid₁⟩ := nothingAhead_of_empty hempty h₁
  obtain ⟨hexmem₂, hmemwb₂, -, -⟩ := walk_second hahead h₂
  calc archView (afterEXMEM t₃) = archView (afterIDEX t₂) :=
      archView_afterEXMEM_next h₃ (hazardInv_of_commits h₂) (not_storesBehindHalt_of_noop hmemwb₂)
        (not_takenBranch_of_noop hexmem₂)
    _ = archView (afterIFID t₁) :=
      archView_afterIDEX_flows h₂ (hazardInv_of_commits h₁) (not_storesBehindHalt_of_noop hahead.memwb)
        (not_takenBranch_of_noop hahead.exmem) (loadUseStall_of_noop hahead.idex)
    _ = archView (effect (s.imem.read s.pc.toNat) s) := archView_afterIFID_of_fetched hrun hahead hview₁ hifid₁

/-- The fourth cycle fetches in straight line, or at the target of the first word. -/
theorem third_fetchAddress (hroom : s.pc.toNat + 4 < s.memSize)
    (htarget : branchesIn (s.imem.read s.pc.toNat) s = true →
      (nextPc (s.imem.read s.pc.toNat) s).toNat + 1 < s.memSize) : (fetchAddress t₃).toNat + 1 < t₃.memSize := by
  have hsize : t₃.memSize = s.memSize :=
    (commits_storage h₃).1.trans ((commits_storage h₂).1.trans (commits_storage h₁).1)
  have ⟨_, _, hexmem, _, _⟩ := hempty
  obtain ⟨hahead, hview₁, -, hifid₁⟩ := nothingAhead_of_empty hempty h₁
  obtain ⟨hexmem₂, -, -, -⟩ := walk_second hahead h₂
  obtain ⟨htaken₃, htarget₃⟩ :=
    walk_third_branch hahead (hazardInv_of_commits h₁) h₂ h₃ ((running_congr hview₁).trans hrun)
  rw [hifid₁, branchesIn_congr hview₁] at htaken₃
  cases htaken : takenBranch t₃ with
  | true =>
    rw [htaken] at htaken₃
    have hnext := htarget htaken₃.symm
    rw [nextPc, if_pos htaken₃.symm] at hnext
    rw [fetchAddress, flushAdjust_pc, if_pos htaken, htarget₃, hifid₁, hsize]
    exact hnext
  | false =>
    have hpc₁ := pc_le_of_not_taken h₁ (not_takenBranch_of_noop hexmem)
    have hpc₂ := pc_le_of_not_taken h₂ (not_takenBranch_of_noop hahead.exmem)
    have hpc₃ := pc_le_of_not_taken h₃ (not_takenBranch_of_noop hexmem₂)
    rw [fetchAddress_of_not_taken htaken]
    omega

/-- Two more cycles commit where the effect of the first word raises no fault, the word behind it is an ADD, and the
addresses fetched are in bounds. -/
theorem exists_two_commits (hroom : s.pc.toNat + 4 < s.memSize)
    (hfault : (effect (s.imem.read s.pc.toNat) s).fault = none)
    (hbehind : (decode (s.imem.read (nextAddr s.pc).toNat)).aluSel = .addAB)
    (htarget : branchesIn (s.imem.read s.pc.toNat) s = true →
      (nextPc (s.imem.read s.pc.toNat) s).toNat + 1 < s.memSize) :
    ∃ t₄ t₅, Commits t₃ t₄ ∧ Commits t₄ t₅ := by
  have hmemwb₃ := third_memwb hempty h₁ h₂ h₃
  have hrun₃ := third_running hempty h₁ h₂ h₃
  have hview₃ := archView_third hempty h₁ h₂ h₃ hrun
  have hfetch₃ := third_fetchAddress hempty h₁ h₂ h₃ hrun hroom htarget
  obtain ⟨t₄, h₄⟩ := exists_commits_of_lt hrun₃ (not_writesMissing_of_noop hmemwb₃)
    (not_badAddress_of_afterEXMEM (by rwa [afterMEMWB_of_noop hmemwb₃]) ((fault_congr hview₃).trans hfault))
    (by omega)
  have hrun₄ := running_next_of_noop h₄ hmemwb₃
  have hview₄ := archView_afterMEMWB_next h₄ (not_storesBehindHalt_of_noop hmemwb₃)
  have hselect : t₄.exmem.instr = noopW ∨ (decode t₄.exmem.instr).aluSel = .addAB :=
    (fourth_exmem hempty h₁ h₂ h₃ h₄).imp_right fun hinstr => by rw [hinstr, hbehind]
  have htaken₄ : takenBranch t₄ = false :=
    hselect.elim not_takenBranch_of_noop fun hadd => Halt.not_takenBranch_of_not_isBranch (isBranch_of_addAB hadd)
  have hmem₄ : ¬ BadAddress t₄.memSize t₄.exmem :=
    hselect.elim (not_badAddress_of_noop · _) (not_badAddress_of_addAB · _)
  have hpc₄ := pc_le_of_commits h₄
  have hsize₄ := (commits_storage h₄).1
  obtain ⟨t₅, h₅⟩ := exists_commits_of_lt hrun₄
    (not_writesMissing_of_afterMEMWB hrun₄ ((fault_congr (hview₄.trans hview₃)).trans hfault)) hmem₄
    (by rw [fetchAddress_of_not_taken htaken₄]; omega)
  exact ⟨t₄, t₅, h₄, h₅⟩

end FiveCycles

/-! ### The word placed on the reset state -/

/-- The reset state with one word at address 0 of instruction memory. -/
def placed (w : Word) : State := State.reset.setImem ((⟨[]⟩ : Memory).write 0 w)

theorem withFetchWord_reset (nbits w : Nat) : State.reset.withFetchWord nbits w = placed (tableWord nbits w) := rfl

theorem emptyMemory_wf : (⟨[]⟩ : Memory).wf := by simp [Memory.wf]

theorem placed_read_zero (w : Word) : (placed w).imem.read 0 = w := read_write_same emptyMemory_wf 0 w

theorem placed_read_one (w : Word) : (placed w).imem.read 1 = 0#32 :=
  read_write_other emptyMemory_wf Nat.one_ne_zero w

theorem pipelineEmpty_placed (w : Word) : PipelineEmpty (placed w) := ⟨rfl, rfl, rfl, rfl, rfl⟩

theorem running_placed (w : Word) : (placed w).running = true :=
  HaltedRun.running_of_empty (pipelineEmpty_placed w) rfl

/-- A BEQ at address 0 that does not leave the memory stays well below its end: a displacement of 16 bits reaches half of
it (R65). -/
theorem branchTarget_one_lt {off : Field16} (h : (branchTarget 1#32 off).toNat < Config.defaultMemSize) :
    (branchTarget 1#32 off).toNat + 1 < Config.defaultMemSize := by
  obtain ⟨-, hsum⟩ := Addresses.addressesAreSignedSumsModulo 1#32 off
  have hlow := BitVec.le_toInt off
  have hhigh := BitVec.toInt_lt (x := off)
  simp only [Config.defaultMemSize, BitVec.toNat_ofNat] at *
  omega

/-- Settles O52: the placed word finds an empty pipeline, an ADD behind it and room for five fetches, and the five cycles
do what its effect says. -/
theorem placedWordRunsFirstFromReset : Obligations.PlacedWordRunsFirstFromReset := by
  intro nbits w i e hdecode hexec hfault hpc
  rw [withFetchWord_reset] at hexec ⊢
  obtain ⟨-, hi⟩ := Option.ite_none_right_eq_some.1 hdecode
  obtain rfl := Option.some.inj hi
  generalize tableWord nbits w = v at hexec ⊢
  cases (exec_decode v (placed v)).symm.trans hexec
  have hrun := running_placed v
  have hempty := pipelineEmpty_placed v
  have hword : (placed v).imem.read (placed v).pc.toNat = v := placed_read_zero v
  have hbehind : (decode ((placed v).imem.read (nextAddr (placed v).pc).toNat)).aluSel = .addAB := by
    have hread : (placed v).imem.read (nextAddr (placed v).pc).toNat = 0#32 := placed_read_one v
    rw [hread]
    decide
  have htarget : branchesIn v (placed v) = true → (nextPc v (placed v)).toNat + 1 < (placed v).memSize := by
    intro hbranch
    have hhalt : (decode v).isHalt = false := not_isHalt_of_isBranch (Bool.and_eq_true_iff.1 hbranch).1
    rw [effect_pc hfault hhalt] at hpc
    rw [nextPc, if_pos hbranch] at hpc ⊢
    exact branchTarget_one_lt hpc
  obtain ⟨t₁, t₂, t₃, h₁, h₂, h₃⟩ := exists_three_commits hrun hempty (by decide : 2 < Config.defaultMemSize)
  obtain ⟨t₄, t₅, h₄, h₅⟩ := exists_two_commits hempty h₁ h₂ h₃ hrun (by decide : 4 < Config.defaultMemSize)
    (by rwa [hword]) hbehind (by rwa [hword])
  have hrun4 : Host.Core.run Sys2Proof.core 4 (placed v) = .next t₄ := by
    rw [run_succ_of_step h₁.1, run_succ_of_step h₂.1, run_succ_of_step h₃.1, run_succ_of_step h₄.1]
    rfl
  obtain ⟨e, hexecE, -, hdmem, hregs, hhalted, -, -⟩ := emptyPipelineRunsTheInstructionAtPc (placed v) t₄ t₅
    ((status_running_iff _).2 ((running_iff _).1 hrun)) hempty hrun4 h₅
  rw [hword] at hexecE
  cases (exec_decode v (placed v)).symm.trans hexecE
  obtain ⟨-, -, -, hifid⟩ := nothingAhead_of_empty hempty h₁
  rw [hword] at hifid
  exact ⟨t₁, t₄, t₅, h₁.1, hifid, by rw [hifid], hrun4, hdmem, h₅, hregs, hhalted⟩

end Sys2Proof.Proofs.FirstInstruction
